-- ==== Sys2Proof/Word.lean ====
section
/-! DEFINITION. The word types of the core (`10_state.md` R10, `00_scope.md` R6): bytes, 16-bit words and
register indices. Bit 0 is the least significant bit everywhere. -/

namespace Sys2Proof

/-- A byte: a V register, a timer, a byte of memory. -/
abbrev Byte := BitVec 8

/-- A 16-bit word: PC, I, a stack entry, an instruction word, a key vector. -/
abbrev Word := BitVec 16

/-- The index of a V register, 0 to 15 (`10_state.md` R11: "an index out of range cannot arise"). -/
abbrev Reg := Fin 16

end Sys2Proof
end

