-- ==== Sys2Proof/Syntax.lean ====
section
/-! DEFINITION. The instructions: one constructor per row of `spec/opcode_table.json`, in the table's order
(`30_encoding.md` R64). An operand has the type of its field (R61, R63): X and Y name registers, N, NN and NNN
are unsigned numbers of 4, 8 and 12 bits. -/

namespace Sys2Proof

/-- The 34 instruction patterns. -/
inductive Instr where
  /-- 00E0, `44_display.md` R140. -/
  | cls
  /-- 00EE, `41_control_flow.md` R100. -/
  | ret
  /-- 1NNN, `41_control_flow.md` R101. -/
  | jp (nnn : BitVec 12)
  /-- 2NNN, `41_control_flow.md` R102. -/
  | call (nnn : BitVec 12)
  /-- 3XNN, `41_control_flow.md` R103. -/
  | seVxNn (x : Reg) (nn : Byte)
  /-- 4XNN, `41_control_flow.md` R104. -/
  | sneVxNn (x : Reg) (nn : Byte)
  /-- 5XY0, `41_control_flow.md` R105. -/
  | seVxVy (x y : Reg)
  /-- 6XNN, `42_alu.md` R110. -/
  | ldVxNn (x : Reg) (nn : Byte)
  /-- 7XNN, `42_alu.md` R111. -/
  | addVxNn (x : Reg) (nn : Byte)
  /-- 8XY0, `42_alu.md` R112. -/
  | ldVxVy (x y : Reg)
  /-- 8XY1, `42_alu.md` R113. -/
  | or (x y : Reg)
  /-- 8XY2, `42_alu.md` R114. -/
  | and (x y : Reg)
  /-- 8XY3, `42_alu.md` R115. -/
  | xor (x y : Reg)
  /-- 8XY4, `42_alu.md` R116. -/
  | addVxVy (x y : Reg)
  /-- 8XY5, `42_alu.md` R117. -/
  | sub (x y : Reg)
  /-- 8XY6, `42_alu.md` R119. -/
  | shr (x y : Reg)
  /-- 8XY7, `42_alu.md` R118. -/
  | subn (x y : Reg)
  /-- 8XYE, `42_alu.md` R121. -/
  | shl (x y : Reg)
  /-- 9XY0, `41_control_flow.md` R106. -/
  | sneVxVy (x y : Reg)
  /-- ANNN, `43_index_memory.md` R130. -/
  | ldINnn (nnn : BitVec 12)
  /-- BNNN, `41_control_flow.md` R107. -/
  | jpV0 (nnn : BitVec 12)
  /-- CXNN, `42_alu.md` R122. -/
  | rnd (x : Reg) (nn : Byte)
  /-- DXYN, `44_display.md` R141. -/
  | drw (x y : Reg) (n : BitVec 4)
  /-- EX9E, `45_keypad_timers.md` R150. -/
  | skp (x : Reg)
  /-- EXA1, `45_keypad_timers.md` R151. -/
  | sknp (x : Reg)
  /-- FX07, `45_keypad_timers.md` R155. -/
  | ldVxDt (x : Reg)
  /-- FX0A, `45_keypad_timers.md` R152. -/
  | ldVxK (x : Reg)
  /-- FX15, `45_keypad_timers.md` R156. -/
  | ldDtVx (x : Reg)
  /-- FX18, `45_keypad_timers.md` R157. -/
  | ldStVx (x : Reg)
  /-- FX1E, `43_index_memory.md` R131. -/
  | addIVx (x : Reg)
  /-- FX29, `43_index_memory.md` R132. -/
  | ldFVx (x : Reg)
  /-- FX33, `43_index_memory.md` R133. -/
  | ldBVx (x : Reg)
  /-- FX55, `43_index_memory.md` R134. -/
  | ldMemVx (x : Reg)
  /-- FX65, `43_index_memory.md` R135. -/
  | ldVxMem (x : Reg)
deriving DecidableEq, Repr

end Sys2Proof
end

