-- ==== Sys2Proof/Config.lean ====
section
/-! DEFINITION. The parameters of the core (`00_scope.md` R5), their defaults, and the free values the
environment supplies when the host's next actions are not listed. -/

namespace Sys2Proof

/-- The three parameters that the spec marks `parameter` and that some rule depends on (`00_scope.md` R5).
The straps are sampled at reset and are a part of State. -/
structure Config where
  /-- FONT_BASE: where the font is put; FONT_BASE + 80 ≤ 0x200. -/
  fontBase : Nat
  /-- FONT: 16 glyphs of 5 bytes, glyph 0 being F0 90 90 90 F0. -/
  font : List Byte
  /-- STACK_DEPTH: how many return addresses the call stack holds, at least 1. -/
  stackDepth : Nat
deriving DecidableEq, Repr

/-- Glyph 0, the one glyph the source gives (`10_state.md` R31). -/
def glyphZero : List Byte := [0xF0, 0x90, 0x90, 0x90, 0xF0]

/-- The default of FONT (`10_state.md` R31). Glyphs 1 to F are the spec's own default, from general knowledge
(PRESUMED, log 13). -/
def standardFont : List Byte :=
  glyphZero ++ [0x20, 0x60, 0x20, 0x20, 0x70] ++ [0xF0, 0x10, 0xF0, 0x80, 0xF0] ++
  [0xF0, 0x10, 0xF0, 0x10, 0xF0] ++ [0x90, 0x90, 0xF0, 0x10, 0x10] ++ [0xF0, 0x80, 0xF0, 0x10, 0xF0] ++
  [0xF0, 0x80, 0xF0, 0x90, 0xF0] ++ [0xF0, 0x10, 0x20, 0x40, 0x40] ++ [0xF0, 0x90, 0xF0, 0x90, 0xF0] ++
  [0xF0, 0x90, 0xF0, 0x10, 0xF0] ++ [0xF0, 0x90, 0xF0, 0x90, 0x90] ++ [0xE0, 0x90, 0xE0, 0x90, 0xE0] ++
  [0xF0, 0x80, 0x80, 0x80, 0xF0] ++ [0xE0, 0x90, 0x90, 0x90, 0xE0] ++ [0xF0, 0x80, 0xF0, 0x80, 0xF0] ++
  [0xF0, 0x80, 0xF0, 0x80, 0x80]

/-- The default configuration (`00_scope.md` R5). -/
def Config.standard : Config := { fontBase := 0x050, font := standardFont, stackDepth := 16 }

/-- FREE VALUE (log 3): how many Tick events come in the n-th period that the host has not listed
(`40_instruction_cycle.md` R91: any number). -/
opaque Config.freeTicks : Nat → Nat

/-- FREE VALUE (log 3): the key vector of the KeySample event of the n-th unlisted period
(`60_exceptions.md` R185: any 16-bit value). -/
opaque Config.freeSample : Nat → Word

/-- FREE VALUE (log 3): the key vector of the Step event of the n-th unlisted period. -/
opaque Config.freeKeys : Nat → Word

/-- FREE VALUE (log 3): the random byte of the Step event of the n-th unlisted period
(`60_exceptions.md` R188: any byte). -/
opaque Config.freeRnd : Nat → Byte

end Sys2Proof
end

