-- ==== Sys2Proof/WellFormed.lean ====
section
/-! DEFINITION. What is accepted. A configuration must meet the constraints of `00_scope.md` R5 and
`93_implementation_defined.md` U4 to U6; an instruction's operands must lie in their fields' ranges
(`30_encoding.md` R63), which the operand types already give. -/

namespace Sys2Proof

/-- The checks on a configuration: FONT_BASE + 80 ≤ 0x200 (U4), FONT has 80 bytes and its glyph 0 is
F0 90 90 90 F0 (U5), STACK_DEPTH ≥ 1 (U6). -/
def Config.wf (c : Config) : Bool :=
  decide (c.fontBase + 80 ≤ 0x200) && decide (c.font.length = 80) && decide (c.font.take 5 = glyphZero) &&
    decide (1 ≤ c.stackDepth)

/-- X and Y are "register indices 0 to 15" (R63). -/
def Reg.inRange (x : Reg) : Bool := decide (x.val < 16)

/-- NN is "an unsigned 8-bit value 0 to 255" (R63). -/
def immInRange (nn : Byte) : Bool := decide (nn.toNat < 256)

/-- NNN is "an unsigned 12-bit value 0 to 0xFFF" (R63). -/
def addrInRange (nnn : BitVec 12) : Bool := decide (nnn.toNat < 0x1000)

/-- N is "an unsigned 4-bit value 0 to 15" (R63). -/
def nibbleInRange (n : BitVec 4) : Bool := decide (n.toNat < 16)

/-- The operands of an instruction lie in their ranges. The operand types leave no ill-formed instruction, so
this holds of every `Instr` (`Sys2Proof.Instr.wf_all`). -/
def Instr.wf : Instr → Bool
  | .cls | .ret => true
  | .jp nnn | .call nnn | .ldINnn nnn | .jpV0 nnn => addrInRange nnn
  | .seVxNn x nn | .sneVxNn x nn | .ldVxNn x nn | .addVxNn x nn | .rnd x nn => x.inRange && immInRange nn
  | .seVxVy x y | .ldVxVy x y | .or x y | .and x y | .xor x y | .addVxVy x y | .sub x y | .shr x y
  | .subn x y | .shl x y | .sneVxVy x y => x.inRange && y.inRange
  | .drw x y n => x.inRange && y.inRange && nibbleInRange n
  | .skp x | .sknp x | .ldVxDt x | .ldVxK x | .ldDtVx x | .ldStVx x | .addIVx x | .ldFVx x | .ldBVx x
  | .ldMemVx x | .ldVxMem x => x.inRange

end Sys2Proof
end

