-- ==== Sys2Proof/Decode.lean ====
section
/-! DEFINITION. Decoding and encoding (`30_encoding.md` R60 to R66). -/

namespace Sys2Proof

/-! ### Fields (R61) -/

/-- G, bits 15:12, the operation group. -/
def fieldG (w : Word) : BitVec 4 := w.extractLsb' 12 4

/-- X, bits 11:8. -/
def fieldX (w : Word) : Reg := (w.extractLsb' 8 4).toFin

/-- Y, bits 7:4. -/
def fieldY (w : Word) : Reg := (w.extractLsb' 4 4).toFin

/-- N, bits 3:0. -/
def fieldN (w : Word) : BitVec 4 := w.extractLsb' 0 4

/-- NN, bits 7:0. -/
def fieldNN (w : Word) : Byte := w.extractLsb' 0 8

/-- NNN, bits 11:0. -/
def fieldNNN (w : Word) : BitVec 12 := w.extractLsb' 0 12

/-! ### The decoder -/

/-- Group 8, by N (R65). -/
def decodeGroup8 (w : Word) : Option Instr :=
  let x := fieldX w
  let y := fieldY w
  match (fieldN w).toNat with
  | 0x0 => some (.ldVxVy x y)
  | 0x1 => some (.or x y)
  | 0x2 => some (.and x y)
  | 0x3 => some (.xor x y)
  | 0x4 => some (.addVxVy x y)
  | 0x5 => some (.sub x y)
  | 0x6 => some (.shr x y)
  | 0x7 => some (.subn x y)
  | 0xE => some (.shl x y)
  | _ => none

/-- Group F, by NN (R65). -/
def decodeGroupF (w : Word) : Option Instr :=
  let x := fieldX w
  let nn := fieldNN w
  if nn = 0x07 then some (.ldVxDt x)
  else if nn = 0x0A then some (.ldVxK x)
  else if nn = 0x15 then some (.ldDtVx x)
  else if nn = 0x18 then some (.ldStVx x)
  else if nn = 0x1E then some (.addIVx x)
  else if nn = 0x29 then some (.ldFVx x)
  else if nn = 0x33 then some (.ldBVx x)
  else if nn = 0x55 then some (.ldMemVx x)
  else if nn = 0x65 then some (.ldVxMem x)
  else none

/-- The spec's `decode(insn)` (R65), by the group nibble: the one row of R64 the word matches, or `none`, the
spec's `Unassigned`. It depends on the word alone. -/
def decode (w : Word) : Option Instr :=
  match (fieldG w).toNat with
  | 0x0 => if w = 0x00E0 then some .cls else if w = 0x00EE then some .ret else none
  | 0x1 => some (.jp (fieldNNN w))
  | 0x2 => some (.call (fieldNNN w))
  | 0x3 => some (.seVxNn (fieldX w) (fieldNN w))
  | 0x4 => some (.sneVxNn (fieldX w) (fieldNN w))
  | 0x5 => if fieldN w = 0 then some (.seVxVy (fieldX w) (fieldY w)) else none
  | 0x6 => some (.ldVxNn (fieldX w) (fieldNN w))
  | 0x7 => some (.addVxNn (fieldX w) (fieldNN w))
  | 0x8 => decodeGroup8 w
  | 0x9 => if fieldN w = 0 then some (.sneVxVy (fieldX w) (fieldY w)) else none
  | 0xA => some (.ldINnn (fieldNNN w))
  | 0xB => some (.jpV0 (fieldNNN w))
  | 0xC => some (.rnd (fieldX w) (fieldNN w))
  | 0xD => some (.drw (fieldX w) (fieldY w) (fieldN w))
  | 0xE =>
    if fieldNN w = 0x9E then some (.skp (fieldX w))
    else if fieldNN w = 0xA1 then some (.sknp (fieldX w))
    else none
  | 0xF => decodeGroupF w
  | _ => none

/-- The 16-bit word of two bytes, the byte at the lower address in the high bits (R60, `20_memory.md` R44). -/
def wordOfBytes (hi lo : Byte) : Word := hi ++ lo

/-- Why bytes are no instruction. -/
inductive Reject where
  /-- Fewer than two bytes are left. -/
  | tooShort
  /-- The word matches no row of R64; what executing it does is `60_exceptions.md` R176. -/
  | unassigned (w : Word)
deriving DecidableEq, Repr

/-- The decoder on bytes in address order: the instruction and the bytes after it, or the reason there is
none. -/
def decodeBytes : List Byte → Except Reject (Instr × List Byte)
  | hi :: lo :: rest =>
    match decode (wordOfBytes hi lo) with
    | some i => .ok (i, rest)
    | none => .error (.unassigned (wordOfBytes hi lo))
  | [_] => .error .tooShort
  | [] => .error .tooShort

/-! ### The encoder -/

/-- Format A: G, NNN (R62). -/
def formatA (g : BitVec 4) (nnn : BitVec 12) : Word := g ++ nnn

/-- Formats XK and XS: G, X, NN (R62; in XS, NN is fixed). -/
def formatXK (g : BitVec 4) (x : Reg) (nn : Byte) : Word := g ++ (BitVec.ofFin (w := 4) x ++ nn)

/-- Formats XY and XYN: G, X, Y, N (R62; in XY, N is fixed). -/
def formatXYN (g : BitVec 4) (x y : Reg) (n : BitVec 4) : Word :=
  g ++ (BitVec.ofFin (w := 4) x ++ (BitVec.ofFin (w := 4) y ++ n))

/-- The word of an instruction, from the patterns of R64. -/
def encode : Instr → Word
  | .cls => 0x00E0
  | .ret => 0x00EE
  | .jp nnn => formatA 0x1 nnn
  | .call nnn => formatA 0x2 nnn
  | .seVxNn x nn => formatXK 0x3 x nn
  | .sneVxNn x nn => formatXK 0x4 x nn
  | .seVxVy x y => formatXYN 0x5 x y 0x0
  | .ldVxNn x nn => formatXK 0x6 x nn
  | .addVxNn x nn => formatXK 0x7 x nn
  | .ldVxVy x y => formatXYN 0x8 x y 0x0
  | .or x y => formatXYN 0x8 x y 0x1
  | .and x y => formatXYN 0x8 x y 0x2
  | .xor x y => formatXYN 0x8 x y 0x3
  | .addVxVy x y => formatXYN 0x8 x y 0x4
  | .sub x y => formatXYN 0x8 x y 0x5
  | .shr x y => formatXYN 0x8 x y 0x6
  | .subn x y => formatXYN 0x8 x y 0x7
  | .shl x y => formatXYN 0x8 x y 0xE
  | .sneVxVy x y => formatXYN 0x9 x y 0x0
  | .ldINnn nnn => formatA 0xA nnn
  | .jpV0 nnn => formatA 0xB nnn
  | .rnd x nn => formatXK 0xC x nn
  | .drw x y n => formatXYN 0xD x y n
  | .skp x => formatXK 0xE x 0x9E
  | .sknp x => formatXK 0xE x 0xA1
  | .ldVxDt x => formatXK 0xF x 0x07
  | .ldVxK x => formatXK 0xF x 0x0A
  | .ldDtVx x => formatXK 0xF x 0x15
  | .ldStVx x => formatXK 0xF x 0x18
  | .addIVx x => formatXK 0xF x 0x1E
  | .ldFVx x => formatXK 0xF x 0x29
  | .ldBVx x => formatXK 0xF x 0x33
  | .ldMemVx x => formatXK 0xF x 0x55
  | .ldVxMem x => formatXK 0xF x 0x65

/-- The two bytes of a word in address order, high byte first (R60). -/
def bytesOfWord (w : Word) : List Byte := [w.extractLsb' 8 8, w.extractLsb' 0 8]

/-- The bytes of an instruction in address order. -/
def encodeBytes (i : Instr) : List Byte := bytesOfWord (encode i)

/-! ### The opcode map as a table (R64, R72) -/

/-- A row of the opcode map: a word w is this instruction when `w &&& mask = pattern`. -/
structure OpcodeRow where
  mnemonic : String
  pattern : Word
  mask : Word
deriving DecidableEq, Repr

/-- The opcode map in the table's order: groups 0 to 7. -/
def opcodeRowsLow : List OpcodeRow :=
  [⟨"CLS", 0x00E0, 0xFFFF⟩, ⟨"RET", 0x00EE, 0xFFFF⟩, ⟨"JP", 0x1000, 0xF000⟩, ⟨"CALL", 0x2000, 0xF000⟩,
   ⟨"SE_VX_NN", 0x3000, 0xF000⟩, ⟨"SNE_VX_NN", 0x4000, 0xF000⟩, ⟨"SE_VX_VY", 0x5000, 0xF00F⟩,
   ⟨"LD_VX_NN", 0x6000, 0xF000⟩, ⟨"ADD_VX_NN", 0x7000, 0xF000⟩]

/-- The opcode map: groups 8 to D. -/
def opcodeRowsMid : List OpcodeRow :=
  [⟨"LD_VX_VY", 0x8000, 0xF00F⟩, ⟨"OR", 0x8001, 0xF00F⟩, ⟨"AND", 0x8002, 0xF00F⟩, ⟨"XOR", 0x8003, 0xF00F⟩,
   ⟨"ADD_VX_VY", 0x8004, 0xF00F⟩, ⟨"SUB", 0x8005, 0xF00F⟩, ⟨"SHR", 0x8006, 0xF00F⟩, ⟨"SUBN", 0x8007, 0xF00F⟩,
   ⟨"SHL", 0x800E, 0xF00F⟩, ⟨"SNE_VX_VY", 0x9000, 0xF00F⟩, ⟨"LD_I_NNN", 0xA000, 0xF000⟩,
   ⟨"JP_V0", 0xB000, 0xF000⟩, ⟨"RND", 0xC000, 0xF000⟩, ⟨"DRW", 0xD000, 0xF000⟩]

/-- The opcode map: groups E and F. -/
def opcodeRowsHigh : List OpcodeRow :=
  [⟨"SKP", 0xE09E, 0xF0FF⟩, ⟨"SKNP", 0xE0A1, 0xF0FF⟩, ⟨"LD_VX_DT", 0xF007, 0xF0FF⟩, ⟨"LD_VX_K", 0xF00A, 0xF0FF⟩,
   ⟨"LD_DT_VX", 0xF015, 0xF0FF⟩, ⟨"LD_ST_VX", 0xF018, 0xF0FF⟩, ⟨"ADD_I_VX", 0xF01E, 0xF0FF⟩,
   ⟨"LD_F_VX", 0xF029, 0xF0FF⟩, ⟨"LD_B_VX", 0xF033, 0xF0FF⟩, ⟨"LD_MEM_VX", 0xF055, 0xF0FF⟩,
   ⟨"LD_VX_MEM", 0xF065, 0xF0FF⟩]

/-- The 34 rows of R64. -/
def opcodeRows : List OpcodeRow := opcodeRowsLow ++ opcodeRowsMid ++ opcodeRowsHigh

/-- "A word matches a pattern when it agrees with the pattern in every fixed hexadecimal digit" (R64). -/
def OpcodeRow.matches (r : OpcodeRow) (w : Word) : Bool := decide (w &&& r.mask = r.pattern)

/-- The mnemonic of an instruction's row in the opcode table. -/
def Instr.mnemonic : Instr → String
  | .cls => "CLS"
  | .ret => "RET"
  | .jp _ => "JP"
  | .call _ => "CALL"
  | .seVxNn _ _ => "SE_VX_NN"
  | .sneVxNn _ _ => "SNE_VX_NN"
  | .seVxVy _ _ => "SE_VX_VY"
  | .ldVxNn _ _ => "LD_VX_NN"
  | .addVxNn _ _ => "ADD_VX_NN"
  | .ldVxVy _ _ => "LD_VX_VY"
  | .or _ _ => "OR"
  | .and _ _ => "AND"
  | .xor _ _ => "XOR"
  | .addVxVy _ _ => "ADD_VX_VY"
  | .sub _ _ => "SUB"
  | .shr _ _ => "SHR"
  | .subn _ _ => "SUBN"
  | .shl _ _ => "SHL"
  | .sneVxVy _ _ => "SNE_VX_VY"
  | .ldINnn _ => "LD_I_NNN"
  | .jpV0 _ => "JP_V0"
  | .rnd _ _ => "RND"
  | .drw _ _ _ => "DRW"
  | .skp _ => "SKP"
  | .sknp _ => "SKNP"
  | .ldVxDt _ => "LD_VX_DT"
  | .ldVxK _ => "LD_VX_K"
  | .ldDtVx _ => "LD_DT_VX"
  | .ldStVx _ => "LD_ST_VX"
  | .addIVx _ => "ADD_I_VX"
  | .ldFVx _ => "LD_F_VX"
  | .ldBVx _ => "LD_B_VX"
  | .ldMemVx _ => "LD_MEM_VX"
  | .ldVxMem _ => "LD_VX_MEM"

/-! ### The host's entry -/

/-- The word the opcode table numbers: its first `nbits` bits, the bits above them 0. -/
def tableWord (nbits w : Nat) : Word := BitVec.ofNat 16 (w % 2 ^ nbits)

/-- The instruction the decoder reads from a word of the opcode table, laid out in memory as the hardware
stores it, high byte first. -/
def decodeTableWord (nbits w : Nat) : Option Instr :=
  match decodeBytes (bytesOfWord (tableWord nbits w)) with
  | .ok (i, _) => some i
  | .error _ => none

end Sys2Proof
end

