-- ==== Sys2Proof/Machine/State.lean ====
section
/-! DEFINITION. The state of the core (`10_state.md` R10), the reasons a step can stop, the host's events, and
the state after reset. -/

namespace Sys2Proof.Machine

/-- RUN (`10_state.md` R26): whether instructions are being fetched. -/
inductive RunState where
  | running
  | awaitingKey
  | halted
deriving DecidableEq, Repr

/-- The four fault conditions of the core (`60_exceptions.md` R170). Each is TAKEN: the answer is the next
state that R178 describes, so no step answers `Host.Outcome.fault`; the type is how the operations say which
condition an instruction raised. Safe: nothing stops where the spec goes on (log 9). -/
inductive Fault where
  /-- Raised by the fetch, DXYN, FX33, FX55 and FX65 on an address above 0xFFF (R171). Taken; safe. -/
  | addressError
  /-- Raised by 2NNN with the stack full (R172). Taken; safe. -/
  | stackOverflow
  /-- Raised by 00EE with the stack empty (R173). Taken; safe. -/
  | stackUnderflow
  /-- Raised by an unassigned word under UNIMPL_HALT = 1 (R174, R176). Taken; safe. -/
  | unimplementedOpcode
deriving DecidableEq, Repr

/-- Why the model answers nothing. -/
inductive Refusal where
  /-- Raised by an arm of `exec` for an instruction that has no meaning yet; there is none. Safe. -/
  | notModelled (mnemonic : String)
  /-- Raised by `step` on a configuration the spec's model "does not accept" (`93_implementation_defined.md`
  U4, U5, U6: FONT_BASE + 80 > 0x200, a FONT that is not 80 bytes or has another glyph 0, STACK_DEPTH 0).
  Safe (log 6). -/
  | configurationNotAccepted
deriving DecidableEq, Repr

/-- The straps, sampled by Reset and constant until the next Reset (`10_state.md` R32). -/
structure Straps where
  /-- SHIFT_SRC_VY: the shifts take their operand from V[Y]. -/
  shiftSrcVy : Bool
  /-- UNIMPL_HALT: an unassigned opcode halts the core. -/
  unimplHalt : Bool
deriving DecidableEq, Repr

/-- The defaults of the straps (`00_scope.md` R5): SHIFT_SRC_VY = 0, UNIMPL_HALT = 1. -/
def Straps.standard : Straps := { shiftSrcVy := false, unimplHalt := true }

/-- FAULT_CODE, FAULT_PC, FAULT_INSN (`10_state.md` R27). -/
structure FaultRecord where
  code : BitVec 3
  pc : Word
  insn : Word
deriving DecidableEq, Repr

/-- UNIMPL_SEEN, UNIMPL_PC, UNIMPL_INSN (`10_state.md` R28). -/
structure UnimplRecord where
  seen : Bool
  pc : Word
  insn : Word
deriving DecidableEq, Repr

/-- The five events that change the core's state, with their inputs (`40_instruction_cycle.md` R80). -/
inductive HostEvent where
  /-- Reset(rom, SHIFT_SRC_VY, UNIMPL_HALT), `70_reset_and_hazards.md` R200. -/
  | reset (rom : List Byte) (straps : Straps)
  /-- Step(keys, rnd), `40_instruction_cycle.md` R81. -/
  | step (keys : Word) (rnd : Byte)
  /-- Tick, `60_exceptions.md` R182. -/
  | tick
  /-- KeySample(keys), `45_keypad_timers.md` R154. -/
  | keySample (keys : Word)
  /-- Stop, `60_exceptions.md` R189. -/
  | stop
deriving DecidableEq, Repr

/-- The environment of the core: THE MODEL'S OWN fields, not the spec's (log 1 to 4). -/
structure Env where
  /-- The key vector sampled by the latest Step (`40_instruction_cycle.md` R82). -/
  keys : Word
  /-- The random byte sampled by the latest Step (`40_instruction_cycle.md` R82). -/
  rnd : Byte
  /-- What the host does next, oldest first. -/
  pending : List HostEvent
  /-- How many unlisted periods were drawn from the free values of Config. -/
  draws : Nat
deriving DecidableEq, Repr

/-- MEM as the bytes that differ from what an unlisted address reads as, by rising address (log 10). -/
abbrev Memory := List Host.Cell

/-- FB[y][x]: 32 rows of 64 pixels (`10_state.md` R24). -/
abbrev Framebuffer := Vector (Vector Bool 64) 32

/-- The state: the rows of `10_state.md` R10, then the straps, the configuration and the environment. -/
structure State where
  /-- V[0..15] (R11). -/
  v : Vector Byte 16
  /-- I (R14). -/
  i : Word
  /-- PC (R16). -/
  pc : Word
  /-- STACK[0..STACK_DEPTH-1] (R19). -/
  stack : List Word
  /-- SP (R19). -/
  sp : Nat
  /-- DT (R22). -/
  dt : Byte
  /-- ST (R22). -/
  st : Byte
  /-- FB (R24). -/
  fb : Framebuffer
  /-- MEM (R30). -/
  mem : Memory
  /-- RUN (R26). -/
  run : RunState
  /-- FAULT_CODE, FAULT_PC, FAULT_INSN (R27). -/
  fault : FaultRecord
  /-- UNIMPL_SEEN, UNIMPL_PC, UNIMPL_INSN (R28). -/
  unimpl : UnimplRecord
  /-- WAIT_X (R29). -/
  waitX : Reg
  /-- KEY_PREV (R29). -/
  keyPrev : Word
  /-- SHIFT_SRC_VY, UNIMPL_HALT (R32). -/
  straps : Straps
  /-- FONT_BASE, FONT, STACK_DEPTH (`00_scope.md` R5); no event changes it. -/
  cfg : Config
  /-- The environment (the model's own). -/
  env : Env
deriving DecidableEq, Repr

/-- The framebuffer with every pixel 0. -/
def blankScreen : Framebuffer := Vector.replicate 32 (Vector.replicate 64 false)

/-- The environment in `State.reset`: nothing sampled, nothing listed (DESIGN CHOICE, log 4). -/
def Env.initial : Env := { keys := 0, rnd := 0, pending := [], draws := 0 }

/-- The machine right after the Reset event with an empty `rom`, the default straps and the default
configuration (`10_state.md` R34; log 5, 6, 7). -/
def State.reset : State where
  v := Vector.replicate 16 0
  i := 0x0000
  pc := 0x0200
  stack := List.replicate 16 0x0000
  sp := 0
  dt := 0x00
  st := 0x00
  fb := blankScreen
  mem := []
  run := .running
  fault := { code := 0, pc := 0x0000, insn := 0x0000 }
  unimpl := { seen := false, pc := 0x0000, insn := 0x0000 }
  waitX := 0
  keyPrev := 0x0000
  straps := Straps.standard
  cfg := Config.standard
  env := Env.initial

end Sys2Proof.Machine
end

