-- ==== Sys2Proof/Machine/Memory.lean ====
section
/-! DEFINITION. MEM as data (`20_memory.md` R40, R41): one byte per address below 0x1000, held as the bytes that
differ from the reset contents, by rising address (log 10). No bounds check is made here; the checked
primitives are in `Machine/Ops.lean`. -/

namespace Sys2Proof.Machine

/-- What an unlisted address reads as: the contents after Reset with an empty `rom`, that is the font at
FONT_BASE to FONT_BASE + 79 and 0x00 elsewhere (R41; `10_state.md` R30, R31). -/
def Memory.base (cfg : Config) (a : Nat) : Byte :=
  if cfg.fontBase ≤ a ∧ a < cfg.fontBase + 80 then cfg.font.getD (a - cfg.fontBase) 0 else 0

/-- The byte listed for an address. -/
def Memory.lookup : Memory → Nat → Option Byte
  | [], _ => none
  | c :: m, a => if c.1 = a then some c.2 else Memory.lookup m a

/-- MEM[a] (`20_memory.md` R40). -/
def Memory.read (cfg : Config) (m : Memory) (a : Nat) : Byte := (Memory.lookup m a).getD (Memory.base cfg a)

/-- The list without an address. -/
def Memory.erase (m : Memory) (a : Nat) : Memory := m.filter (fun c => c.1 != a)

/-- A cell put at its place in the rising order. -/
def Memory.insert (c : Host.Cell) : Memory → Memory
  | [] => [c]
  | d :: m => if c.1 < d.1 then c :: d :: m else d :: Memory.insert c m

/-- MEM[a] <- b. Writing what an unlisted address reads as removes the entry. -/
def Memory.write (cfg : Config) (m : Memory) (a : Nat) (b : Byte) : Memory :=
  if b = Memory.base cfg a then Memory.erase m a else Memory.insert (a, b) (Memory.erase m a)

/-- MEM[a], MEM[a + 1], and so on, `n` bytes. -/
def Memory.readBlock (cfg : Config) (m : Memory) (a : Nat) : Nat → List Byte
  | 0 => []
  | n + 1 => Memory.read cfg m a :: Memory.readBlock cfg m (a + 1) n

/-- MEM[a] <- b0, MEM[a + 1] <- b1, and so on. -/
def Memory.writeBlock (cfg : Config) (m : Memory) (a : Nat) : List Byte → Memory
  | [] => m
  | b :: bs => Memory.writeBlock cfg (Memory.write cfg m a b) (a + 1) bs

/-- The loader's `load(bytes, base_address)` (R55): the bytes that fit below 0x1000 are written, the others
dropped; the count of bytes written is the second component. -/
def Memory.load (cfg : Config) (m : Memory) (bytes : List Byte) (a : Nat) : Memory × Nat :=
  let kept := bytes.take (0x1000 - a)
  (Memory.writeBlock cfg m a kept, kept.length)

/-- The canonical form from an address on: addresses strictly rising and below 0x1000, and no entry equal to
what an unlisted address reads as. -/
def Memory.wfFrom (cfg : Config) : Nat → Memory → Bool
  | _, [] => true
  | lo, c :: m =>
    decide (lo ≤ c.1) && decide (c.1 < 0x1000) && decide (c.2 ≠ Memory.base cfg c.1) && Memory.wfFrom cfg (c.1 + 1) m

/-- The canonical form of MEM. -/
def Memory.wf (cfg : Config) (m : Memory) : Bool := Memory.wfFrom cfg 0 m

end Sys2Proof.Machine
end

