-- ==== Sys2Proof/Machine/Ops.lean ====
section
/-! DEFINITION. The named operations every meaning is written over (`00_scope.md` R7): one writer per piece of
state, register access, the program counter, the checked memory primitives, Push and Pop, fault entry, and the
commit-or-abort of an instruction. -/

namespace Sys2Proof.Machine

/-! ### One writer per piece of state -/

def State.setI (s : State) (w : Word) : State := { s with i := w }
def State.setPc (s : State) (w : Word) : State := { s with pc := w }
def State.setStack (s : State) (stack : List Word) (sp : Nat) : State := { s with stack := stack, sp := sp }
def State.setDt (s : State) (b : Byte) : State := { s with dt := b }
def State.setSt (s : State) (b : Byte) : State := { s with st := b }
def State.setFb (s : State) (fb : Framebuffer) : State := { s with fb := fb }
def State.setMem (s : State) (m : Memory) : State := { s with mem := m }
def State.setRun (s : State) (r : RunState) : State := { s with run := r }
def State.setFault (s : State) (r : FaultRecord) : State := { s with fault := r }
def State.setUnimpl (s : State) (r : UnimplRecord) : State := { s with unimpl := r }
def State.setWaitX (s : State) (x : Reg) : State := { s with waitX := x }
def State.setKeyPrev (s : State) (k : Word) : State := { s with keyPrev := k }
def State.setEnv (s : State) (e : Env) : State := { s with env := e }

/-! ### V registers (`10_state.md` R11) -/

/-- `V[x]`. -/
def State.reg (s : State) (x : Reg) : Byte := s.v.get x

/-- `V[x] <- b`. -/
def State.setReg (s : State) (x : Reg) (b : Byte) : State := { s with v := s.v.set x b }

/-- `V[k] <- b0`, `V[k + 1] <- b1`, and so on (FX65, `43_index_memory.md` R135). -/
def State.setRegsFrom (s : State) (k : Nat) : List Byte → State
  | [] => s
  | b :: bs => (s.setReg (Fin.ofNat 16 k) b).setRegsFrom (k + 1) bs

/-! ### The program counter -/

/-- "advance PC by 2 unconditionally before dispatch" (`40_instruction_cycle.md` R84). -/
def State.advance (s : State) : State := s.setPc (s.pc + 2)

/-- `if c: pc <- PC + 2` (`41_control_flow.md`, section 2). -/
def State.skipIf (s : State) (c : Bool) : State := if c then s.setPc (s.pc + 2) else s

/-! ### The checked memory primitives (`20_memory.md` R42 to R45) -/

/-- MEM[a] of a state, with no check. -/
def State.byteAt (s : State) (a : Nat) : Byte := Memory.read s.cfg s.mem a

/-- Every address of the `n` bytes from `a` on is at most 0xFFF (R42); no byte, no check. -/
def inBounds (a n : Nat) : Bool := n == 0 || decide (a + n ≤ 0x1000)

/-- `n` bytes from `a` on, all checked before any is used. With `n = 1` this is `MemRead(a, 1)` (R43). -/
def memRead (s : State) (a n : Nat) : Except Fault (List Byte) :=
  if inBounds a n then .ok (Memory.readBlock s.cfg s.mem a n) else .error .addressError

/-- `MemRead(a, 2)` (R44): the byte at the lower address is bits 15 to 8. -/
def memRead16 (s : State) (a : Nat) : Except Fault Word :=
  if inBounds a 2 then .ok (wordOfBytes (s.byteAt a) (s.byteAt (a + 1))) else .error .addressError

/-- Bytes written from `a` on, the whole range checked before the first write. With one byte this is
`MemWrite(a, 1, v)` (R45). -/
def memWrite (s : State) (a : Nat) (bs : List Byte) : Except Fault State :=
  if inBounds a bs.length then .ok (s.setMem (Memory.writeBlock s.cfg s.mem a bs)) else .error .addressError

/-! ### The call stack (`10_state.md` R19 to R21) -/

/-- `Push(w)` (R20). -/
def push (s : State) (w : Word) : Except Fault State :=
  if s.sp = s.cfg.stackDepth then .error .stackOverflow
  else .ok (s.setStack (s.stack.set s.sp w) (s.sp + 1))

/-- `Pop()` (R21): the value and the state after; the slot keeps its contents. A SP beyond the list, which no
run reaches, pops 0 (log 12). -/
def pop (s : State) : Except Fault (Word × State) :=
  if s.sp = 0 then .error .stackUnderflow
  else .ok (s.stack.getD (s.sp - 1) 0, s.setStack s.stack (s.sp - 1))

/-- The host's optional `top()` (R19): STACK[SP - 1], with no side effect. DESIGN CHOICE (log 21): on the empty
stack, where the spec gives no STACK[SP - 1] and says nothing, the answer is `none`. -/
def stackTop (s : State) : Option Word := if s.sp = 0 then none else s.stack[s.sp - 1]?

/-! ### Faults (`60_exceptions.md`)

There is no return from a fault: "There is no return-from-fault instruction" (R179). Only the Reset event leaves
Halted: `Sys2Proof.Machine.resetState` of `Machine/Events.lean`. -/

/-- FAULT_CODE of a condition (R170). -/
def faultCode : Fault → BitVec 3
  | .addressError => 1
  | .stackOverflow => 2
  | .stackUnderflow => 3
  | .unimplementedOpcode => 4

/-- Fault entry (R178) from the state BEFORE the Step: RUN <- Halted, FAULT_CODE <- the code, FAULT_PC <- the
address the instruction was fetched from, FAULT_INSN <- its word; all else as it was, PC included. -/
def enterFault (f : Fault) (a : Word) (insn : Word) (s : State) : State :=
  (s.setRun .halted).setFault { code := faultCode f, pc := a, insn := insn }

/-- One instruction, from the state before its Step (`40_instruction_cycle.md` R84, R87): its rule runs on the
state with PC advanced; if it completes, its result is the new state; if it raises, none of its writes and not
the PC advance are kept. The recorded word is the instruction's own (R178; log 11). -/
def perform (i : Instr) (rule : State → Except Fault State) (s : State) : Host.Outcome State Fault Refusal :=
  match rule s.advance with
  | .ok t => .next t
  | .error f => .next (enterFault f s.pc (encode i) s)

/-- The unassigned-opcode rule (R176), on the state before the Step: under UNIMPL_HALT = 1 the fault is entered,
else the word is skipped as a no-op and recorded. -/
def unassignedOpcode (w : Word) (s : State) : State :=
  if s.straps.unimplHalt then enterFault .unimplementedOpcode s.pc w s
  else s.advance.setUnimpl { seen := true, pc := s.pc, insn := w }

end Sys2Proof.Machine
end

