-- ==== Sys2Proof/Machine/Operands.lean ====
section
/-! DEFINITION. The operand forms (`30_encoding.md` R63; `43_index_memory.md`, its head). -/

namespace Sys2Proof.Machine

/-- `zext_16` of a byte (`00_scope.md` R6). -/
def zextByte (b : Byte) : Word := b.setWidth 16

/-- `zext_16(NNN)`. -/
def zextAddr (nnn : BitVec 12) : Word := nnn.setWidth 16

/-- V[0], which BNNN reads implicitly (R63). -/
def regZero : Reg := 0

/-- V[0xF], the flag register (`10_state.md` R12). -/
def regFlag : Reg := 0xF

/-- `src` of the shifts: V[Y] when SHIFT_SRC_VY is 1, else V[X] (`42_alu.md` R120). -/
def shiftSource (x y : Reg) (s : State) : Byte := if s.straps.shiftSrcVy then s.reg y else s.reg x

/-- `rnd`, the random byte of this Step (`40_instruction_cycle.md` R82). -/
def randomByte (s : State) : Byte := s.env.rnd

/-- `V[X] & 0x0F`, the key V[X] names (`45_keypad_timers.md` R150). -/
def keyIndex (x : Reg) (s : State) : Nat := (s.reg x &&& 0x0F).toNat

/-- `keys[k]` of this Step for the key V[X] names (R150). -/
def keyPressed (x : Reg) (s : State) : Bool := s.env.keys.getLsbD (keyIndex x s)

/-- The base address I of a memory operand; byte k is at I + k, a natural number (`20_memory.md` R42). -/
def indexAddress (s : State) : Nat := s.i.toNat

/-- How many registers FX55 and FX65 move: X + 1, "here X is a count" (`43_index_memory.md` R134). -/
def blockLength (x : Reg) : Nat := x.val + 1

/-- V[0], ..., V[X] in order (R134). -/
def regBlock (x : Reg) (s : State) : List Byte := s.v.toList.take (blockLength x)

/-- `FONT_BASE + 5 * zext_16(V[X])` (`43_index_memory.md` R132). -/
def glyphAddress (cfg : Config) (d : Byte) : Word := BitVec.ofNat 16 (cfg.fontBase + 5 * d.toNat)

/-- `(I + zext_16(V[X])) mod 4096` (`43_index_memory.md` R131). -/
def indexPlus (i : Word) (b : Byte) : Word := BitVec.ofNat 16 ((i.toNat + b.toNat) % 0x1000)

/-- The three decimal digits, hundreds first (`43_index_memory.md` R133). -/
def decimalDigits (b : Byte) : List Byte :=
  [BitVec.ofNat 8 (b.toNat / 100), BitVec.ofNat 8 (b.toNat / 10 % 10), BitVec.ofNat 8 (b.toNat % 10)]

end Sys2Proof.Machine
end

