-- ==== Sys2Proof/Machine/Flags.lean ====
section
/-! DEFINITION. The flag computations (`10_state.md` R12, R13; `42_alu.md` R123). A flag is a Bool here and
the byte 0x00 or 0x01 in V[0xF]. -/

namespace Sys2Proof.Machine

/-- "Flag values are exactly 0x00 and 0x01" (R13). -/
def flagByte (f : Bool) : Byte := if f then 0x01 else 0x00

/-- Carry out of bit 7: `sum > 255` (`42_alu.md` R116). -/
def carryOut (a b : Byte) : Bool := decide (255 < a.toNat + b.toNat)

/-- No borrow in a - b: `a >= b` (R117). -/
def noBorrow (a b : Byte) : Bool := decide (b.toNat ≤ a.toNat)

/-- The bit a right shift by one moves out: bit 0 (R119). -/
def shiftedOutRight (a : Byte) : Bool := a.getLsbD 0

/-- The bit a left shift by one moves out: bit 7 (R121). -/
def shiftedOutLeft (a : Byte) : Bool := a.getLsbD 7

/-- `V[0xF] <- flag`. -/
def State.setFlag (s : State) (f : Bool) : State := s.setReg regFlag (flagByte f)

/-- A result and a flag: the result goes to V[X] first and "the flag write (which always happens last)" second
(`10_state.md` R12). -/
def State.setWithFlag (s : State) (x : Reg) (result : Byte) (f : Bool) : State := (s.setReg x result).setFlag f

end Sys2Proof.Machine
end

