-- ==== Sys2Proof/Machine/Alu.lean ====
section
/-! DEFINITION. Register load, arithmetic, logic, shift and random instructions (`42_alu.md`). Addition and
subtraction of bytes wrap modulo 256 (R123). -/

namespace Sys2Proof.Machine

/-- 6XNN (R110): `V[X] <- NN`. -/
def execLdVxNn (x : Reg) (nn : Byte) (s : State) : Host.Outcome State Fault Refusal :=
  perform (.ldVxNn x nn) (fun t => .ok (t.setReg x nn)) s

/-- 7XNN (R111): `V[X] <- (V[X] + NN) mod 256`, no flag. -/
def execAddVxNn (x : Reg) (nn : Byte) (s : State) : Host.Outcome State Fault Refusal :=
  perform (.addVxNn x nn) (fun t => .ok (t.setReg x (t.reg x + nn))) s

/-- 8XY0 (R112): `V[X] <- V[Y]`. -/
def execLdVxVy (x y : Reg) (s : State) : Host.Outcome State Fault Refusal :=
  perform (.ldVxVy x y) (fun t => .ok (t.setReg x (t.reg y))) s

/-- 8XY1 (R113): `V[X] <- V[X] | V[Y]`. -/
def execOr (x y : Reg) (s : State) : Host.Outcome State Fault Refusal :=
  perform (.or x y) (fun t => .ok (t.setReg x (t.reg x ||| t.reg y))) s

/-- 8XY2 (R114): `V[X] <- V[X] & V[Y]`. -/
def execAnd (x y : Reg) (s : State) : Host.Outcome State Fault Refusal :=
  perform (.and x y) (fun t => .ok (t.setReg x (t.reg x &&& t.reg y))) s

/-- 8XY3 (R115): `V[X] <- V[X] ^ V[Y]`. -/
def execXor (x y : Reg) (s : State) : Host.Outcome State Fault Refusal :=
  perform (.xor x y) (fun t => .ok (t.setReg x (t.reg x ^^^ t.reg y))) s

/-- 8XY4 (R116): the sum modulo 256, flag = carry, the flag last. -/
def execAddVxVy (x y : Reg) (s : State) : Host.Outcome State Fault Refusal :=
  perform (.addVxVy x y)
    (fun t => .ok (t.setWithFlag x (t.reg x + t.reg y) (carryOut (t.reg x) (t.reg y)))) s

/-- 8XY5 (R117): V[X] - V[Y] modulo 256, flag = no borrow, the flag last. -/
def execSub (x y : Reg) (s : State) : Host.Outcome State Fault Refusal :=
  perform (.sub x y)
    (fun t => .ok (t.setWithFlag x (t.reg x - t.reg y) (noBorrow (t.reg x) (t.reg y)))) s

/-- 8XY7 (R118): V[Y] - V[X] modulo 256, flag = no borrow, the flag last. -/
def execSubn (x y : Reg) (s : State) : Host.Outcome State Fault Refusal :=
  perform (.subn x y)
    (fun t => .ok (t.setWithFlag x (t.reg y - t.reg x) (noBorrow (t.reg y) (t.reg x)))) s

/-- 8XY6 (R119, R120): `src >> 1`, flag = bit 0 of `src`, the flag last. -/
def execShr (x y : Reg) (s : State) : Host.Outcome State Fault Refusal :=
  perform (.shr x y)
    (fun t => .ok (t.setWithFlag x (shiftSource x y t >>> 1) (shiftedOutRight (shiftSource x y t)))) s

/-- 8XYE (R121, R120): `src << 1` modulo 256, flag = bit 7 of `src`, the flag last. -/
def execShl (x y : Reg) (s : State) : Host.Outcome State Fault Refusal :=
  perform (.shl x y)
    (fun t => .ok (t.setWithFlag x (shiftSource x y t <<< 1) (shiftedOutLeft (shiftSource x y t)))) s

/-- CXNN (R122): `V[X] <- rnd & NN`. -/
def execRnd (x : Reg) (nn : Byte) (s : State) : Host.Outcome State Fault Refusal :=
  perform (.rnd x nn) (fun t => .ok (t.setReg x (randomByte t &&& nn))) s

end Sys2Proof.Machine
end

