-- ==== Sys2Proof/Machine/ControlFlow.lean ====
section
/-! DEFINITION. Control transfer (`41_control_flow.md`). -/

namespace Sys2Proof.Machine

/-- 00EE (R100): `t = Pop(); pc <- t`, all 16 bits. -/
def execRet (s : State) : Host.Outcome State Fault Refusal :=
  perform .ret (fun t => (pop t).map (fun p => p.2.setPc p.1)) s

/-- 1NNN (R101): `pc <- zext_16(NNN)`. -/
def execJp (nnn : BitVec 12) (s : State) : Host.Outcome State Fault Refusal :=
  perform (.jp nnn) (fun t => .ok (t.setPc (zextAddr nnn))) s

/-- 2NNN (R102): `Push(PC); pc <- zext_16(NNN)`, PC being a + 2. -/
def execCall (nnn : BitVec 12) (s : State) : Host.Outcome State Fault Refusal :=
  perform (.call nnn) (fun t => (push t t.pc).map (fun u => u.setPc (zextAddr nnn))) s

/-- 3XNN (R103): skip if V[X] == NN. -/
def execSeVxNn (x : Reg) (nn : Byte) (s : State) : Host.Outcome State Fault Refusal :=
  perform (.seVxNn x nn) (fun t => .ok (t.skipIf (t.reg x == nn))) s

/-- 4XNN (R104): skip if V[X] != NN. -/
def execSneVxNn (x : Reg) (nn : Byte) (s : State) : Host.Outcome State Fault Refusal :=
  perform (.sneVxNn x nn) (fun t => .ok (t.skipIf (t.reg x != nn))) s

/-- 5XY0 (R105): skip if V[X] == V[Y]. -/
def execSeVxVy (x y : Reg) (s : State) : Host.Outcome State Fault Refusal :=
  perform (.seVxVy x y) (fun t => .ok (t.skipIf (t.reg x == t.reg y))) s

/-- 9XY0 (R106): skip if V[X] != V[Y]. -/
def execSneVxVy (x y : Reg) (s : State) : Host.Outcome State Fault Refusal :=
  perform (.sneVxVy x y) (fun t => .ok (t.skipIf (t.reg x != t.reg y))) s

/-- BNNN (R107): `pc <- zext_16(NNN) + zext_16(V[0])`, not reduced. -/
def execJpV0 (nnn : BitVec 12) (s : State) : Host.Outcome State Fault Refusal :=
  perform (.jpV0 nnn) (fun t => .ok (t.setPc (zextAddr nnn + zextByte (t.reg regZero)))) s

end Sys2Proof.Machine
end

