-- ==== Sys2Proof/Machine/Display.lean ====
section
/-! DEFINITION. The framebuffer and its instructions (`44_display.md`; `10_state.md` R24). -/

namespace Sys2Proof.Machine

/-- `FB[y][x]`. -/
def pixel (fb : Framebuffer) (x : Fin 64) (y : Fin 32) : Bool := (fb.get y).get x

/-- `FB[y][x] <- FB[y][x] ^ 1`. -/
def flipPixel (fb : Framebuffer) (x : Fin 64) (y : Fin 32) : Framebuffer :=
  fb.set y ((fb.get y).set x (!pixel fb x y))

/-- `(x0 + col) mod 64`. -/
def wrapColumn (n : Nat) : Fin 64 := Fin.ofNat 64 n

/-- `(y0 + row) mod 32`. -/
def wrapRow (n : Nat) : Fin 32 := Fin.ofNat 32 n

/-- What a draw carries along: the framebuffer so far and whether a set pixel was turned off so far. -/
structure Drawing where
  fb : Framebuffer
  collision : Bool

/-- One set sprite bit at (x, y): `if FB[y][x] == 1: coll = 1`, then the pixel is complemented (R141). -/
def plot (d : Drawing) (x : Fin 64) (y : Fin 32) : Drawing :=
  { fb := flipPixel d.fb x y, collision := d.collision || pixel d.fb x y }

/-- One column of a sprite row: bit 7 - col of the row's byte, bit 7 being the leftmost column (R141). -/
def drawColumn (x0 : Nat) (y : Fin 32) (b : Byte) (d : Drawing) (col : Nat) : Drawing :=
  if b.getLsbD (7 - col) then plot d (wrapColumn (x0 + col)) y else d

/-- One sprite row: columns 0 to 7. -/
def drawRow (x0 : Nat) (y : Fin 32) (b : Byte) (d : Drawing) : Drawing :=
  [0, 1, 2, 3, 4, 5, 6, 7].foldl (drawColumn x0 y b) d

/-- The sprite's rows from `y` on, each pixel wrapped on its own (R141). -/
def drawSprite (x0 : Nat) (y : Nat) (d : Drawing) : List Byte → Drawing
  | [] => d
  | b :: bs => drawSprite x0 (y + 1) (drawRow x0 (wrapRow y) b d) bs

/-- The whole draw from V[X], V[Y] as they were (R141). -/
def drawAt (x y : Reg) (s : State) (rows : List Byte) : Drawing :=
  drawSprite (s.reg x).toNat (s.reg y).toNat { fb := s.fb, collision := false } rows

/-- 00E0 (R140): every pixel 0. -/
def execCls (s : State) : Host.Outcome State Fault Refusal :=
  perform .cls (fun t => .ok (t.setFb blankScreen)) s

/-- DXYN (R141): N sprite rows from MEM[I] on, XORed onto the framebuffer; V[0xF] <- collision, written once,
last; with N = 0 no memory is read. -/
def execDrw (x y : Reg) (n : BitVec 4) (s : State) : Host.Outcome State Fault Refusal :=
  perform (.drw x y n)
    (fun t => (memRead t (indexAddress t) n.toNat).map
      (fun rows => (t.setFb (drawAt x y t rows).fb).setFlag (drawAt x y t rows).collision)) s

end Sys2Proof.Machine
end

