-- ==== Sys2Proof/Machine/IndexMemory.lean ====
section
/-! DEFINITION. Index register and memory instructions (`43_index_memory.md`). -/

namespace Sys2Proof.Machine

/-- ANNN (R130): `I <- zext_16(NNN)`. -/
def execLdINnn (nnn : BitVec 12) (s : State) : Host.Outcome State Fault Refusal :=
  perform (.ldINnn nnn) (fun t => .ok (t.setI (zextAddr nnn))) s

/-- FX1E (R131): `I <- (I + zext_16(V[X])) mod 4096`, no flag. -/
def execAddIVx (x : Reg) (s : State) : Host.Outcome State Fault Refusal :=
  perform (.addIVx x) (fun t => .ok (t.setI (indexPlus t.i (t.reg x)))) s

/-- FX29 (R132): `I <- FONT_BASE + 5 * zext_16(V[X])`, V[X] not masked. -/
def execLdFVx (x : Reg) (s : State) : Host.Outcome State Fault Refusal :=
  perform (.ldFVx x) (fun t => .ok (t.setI (glyphAddress t.cfg (t.reg x)))) s

/-- FX33 (R133): the decimal digits of V[X] to MEM[I], MEM[I + 1], MEM[I + 2], hundreds first; the range is
checked before any write. -/
def execLdBVx (x : Reg) (s : State) : Host.Outcome State Fault Refusal :=
  perform (.ldBVx x) (fun t => memWrite t (indexAddress t) (decimalDigits (t.reg x))) s

/-- FX55 (R134): V[0] to V[X] to MEM[I] to MEM[I + X]; I unchanged. -/
def execLdMemVx (x : Reg) (s : State) : Host.Outcome State Fault Refusal :=
  perform (.ldMemVx x) (fun t => memWrite t (indexAddress t) (regBlock x t)) s

/-- FX65 (R135): MEM[I] to MEM[I + X] to V[0] to V[X]; I unchanged. -/
def execLdVxMem (x : Reg) (s : State) : Host.Outcome State Fault Refusal :=
  perform (.ldVxMem x)
    (fun t => (memRead t (indexAddress t) (blockLength x)).map (fun bs => t.setRegsFrom 0 bs)) s

end Sys2Proof.Machine
end

