-- ==== Sys2Proof/Machine/KeypadTimers.lean ====
section
/-! DEFINITION. Keypad and timer instructions (`45_keypad_timers.md`). The KeySample event, which completes
FX0A, is in `Machine/Events.lean`. -/

namespace Sys2Proof.Machine

/-- EX9E (R150): skip if the key V[X] names is pressed in this Step's snapshot. -/
def execSkp (x : Reg) (s : State) : Host.Outcome State Fault Refusal :=
  perform (.skp x) (fun t => .ok (t.skipIf (keyPressed x t))) s

/-- EXA1 (R151): skip if it is not. -/
def execSknp (x : Reg) (s : State) : Host.Outcome State Fault Refusal :=
  perform (.sknp x) (fun t => .ok (t.skipIf (!keyPressed x t))) s

/-- FX0A (R152): `WAIT_X <- X; KEY_PREV <- keys; RUN <- AwaitingKey`; V[X] is not written yet. -/
def execLdVxK (x : Reg) (s : State) : Host.Outcome State Fault Refusal :=
  perform (.ldVxK x) (fun t => .ok (((t.setWaitX x).setKeyPrev t.env.keys).setRun .awaitingKey)) s

/-- FX07 (R155): `V[X] <- DT`. -/
def execLdVxDt (x : Reg) (s : State) : Host.Outcome State Fault Refusal :=
  perform (.ldVxDt x) (fun t => .ok (t.setReg x t.dt)) s

/-- FX15 (R156): `DT <- V[X]`. -/
def execLdDtVx (x : Reg) (s : State) : Host.Outcome State Fault Refusal :=
  perform (.ldDtVx x) (fun t => .ok (t.setDt (t.reg x))) s

/-- FX18 (R157): `ST <- V[X]`. -/
def execLdStVx (x : Reg) (s : State) : Host.Outcome State Fault Refusal :=
  perform (.ldStVx x) (fun t => .ok (t.setSt (t.reg x))) s

end Sys2Proof.Machine
end

