-- ==== Sys2Proof/Machine/Events.lean ====
section
/-! DEFINITION. The events other than Step: Reset (`70_reset_and_hazards.md` R200 to R202), Tick
(`60_exceptions.md` R182), KeySample (`45_keypad_timers.md` R153, R154), Stop (`60_exceptions.md` R189), and the
inputs of a Step (`40_instruction_cycle.md` R82). -/

namespace Sys2Proof.Machine

/-- A timer's decrement: "by 1 if non-zero (saturating at 0, never wrapping negative)" (R182). -/
def decrement (b : Byte) : Byte := if b = 0 then b else b - 1

/-- The Tick event (R182), the same in every run state. -/
def tick (s : State) : State := (s.setDt (decrement s.dt)).setSt (decrement s.st)

/-- `k` Tick events in a row: "max(0, initial − N)" (R182), equal to `k` times `tick`
(`Sys2Proof.Machine.ticks_succ`). -/
def ticks (k : Nat) (s : State) : State :=
  (s.setDt (BitVec.ofNat 8 (s.dt.toNat - k))).setSt (BitVec.ofNat 8 (s.st.toNat - k))

/-- `first_key(m)` (R153): the least k with m[k] == 1; none for m = 0, on which the spec never uses it. -/
def firstKey (m : Word) : Option Nat :=
  [0, 1, 2, 3, 4, 5, 6, 7, 8, 9, 10, 11, 12, 13, 14, 15].find? (fun k => m.getLsbD k)

/-- The KeySample event (R154). -/
def keySample (keys : Word) (s : State) : State :=
  if s.run = .awaitingKey then
    match firstKey (keys &&& ~~~s.keyPrev) with
    | some k => ((s.setReg s.waitX (BitVec.ofNat 8 k)).setRun .running).setKeyPrev keys
    | none => s.setKeyPrev keys
  else s

/-- The Stop event (R189): "if RUN is Halted nothing changes". -/
def stop (s : State) : State := if s.run = .halted then s else s.setRun .halted

/-- The state after the Reset event, `init(rom, SHIFT_SRC_VY, UNIMPL_HALT)` of R201 for a configuration
(R200; `10_state.md` R34). The font and the zeroes are what an unlisted address reads as. -/
def initState (cfg : Config) (rom : List Byte) (straps : Straps) (env : Env) : State where
  v := Vector.replicate 16 0
  i := 0x0000
  pc := 0x0200
  stack := List.replicate cfg.stackDepth 0x0000
  sp := 0
  dt := 0x00
  st := 0x00
  fb := blankScreen
  mem := (Memory.load cfg [] rom 0x200).1
  run := .running
  fault := { code := 0, pc := 0x0000, insn := 0x0000 }
  unimpl := { seen := false, pc := 0x0000, insn := 0x0000 }
  waitX := 0
  keyPrev := 0x0000
  straps := straps
  cfg := cfg
  env := env

/-- The Reset event (R200): every piece of state is set, from any run state (R203). The configuration is the
machine's and stays; the environment is the host's and stays (log 18). -/
def resetState (rom : List Byte) (straps : Straps) (s : State) : State := initState s.cfg rom straps s.env

/-- The inputs of a Step, "sampled once, at its start" (`40_instruction_cycle.md` R82). -/
def sampleInputs (keys : Word) (rnd : Byte) (s : State) : State := s.setEnv { s.env with keys := keys, rnd := rnd }

/-- What comes before the Step when the host has listed nothing (log 2): any number of Ticks, one KeySample, and
the Step's inputs, all free values, in the order Tick, KeySample, Step that R223 of
`70_reset_and_hazards.md` uses. -/
def unlistedInputs (s : State) : State :=
  let n := s.env.draws
  let t := keySample (Config.freeSample n) (ticks (Config.freeTicks n) s)
  t.setEnv { t.env with keys := Config.freeKeys n, rnd := Config.freeRnd n, draws := n + 1 }

/-- The host lists further events. -/
def schedule (es : List HostEvent) (s : State) : State := s.setEnv { s.env with pending := s.env.pending ++ es }

end Sys2Proof.Machine
end

