-- ==== Sys2Proof/Machine/Cycle.lean ====
section
/-! DEFINITION. The Step event and the choice of the next event (`40_instruction_cycle.md` R80 to R88). -/

namespace Sys2Proof.Machine

/-- The fetch (R83): `MemRead(PC, 2)`. -/
def fetch (s : State) : Except Fault Word := memRead16 s s.pc.toNat

/-- One Step (R88) on a state whose inputs are sampled. When RUN is not Running it changes nothing (R81). A
fetch fault records the word 0x0000 (R83). -/
def cycle (s : State) : Host.Outcome State Fault Refusal :=
  if s.run = .running then
    match fetch s with
    | .error f => .next (enterFault f s.pc 0x0000 s)
    | .ok w =>
      match decode w with
      | some i => exec i s
      | none => .next (unassignedOpcode w s)
  else .next s

/-- One event (R80). -/
def applyEvent (e : HostEvent) (s : State) : Host.Outcome State Fault Refusal :=
  match e with
  | .reset rom straps => .next (resetState rom straps s)
  | .step keys rnd => cycle (sampleInputs keys rnd s)
  | .tick => .next (tick s)
  | .keySample keys => .next (keySample keys s)
  | .stop => .next (stop s)

/-- The state with the first listed event taken off the list. -/
def withPending (es : List HostEvent) (s : State) : State := s.setEnv { s.env with pending := es }

/-- What the machine does next (log 1, 2): the first event the host has listed, or, with nothing listed, one
period of the free environment that ends in a Step. -/
def nextEvent (s : State) : Host.Outcome State Fault Refusal :=
  match s.env.pending with
  | e :: rest => applyEvent e (withPending rest s)
  | [] => cycle (unlistedInputs s)

end Sys2Proof.Machine
end

