-- ==== Sys2Proof/Machine/Step.lean ====
section
/-! DEFINITION. One step of the machine, and how the host puts an instruction word where the next step fetches. -/

namespace Sys2Proof.Machine

/-- One step: the next event of an accepted configuration (`93_implementation_defined.md` U4 to U6: any other is
refused). -/
def step (s : State) : Host.Outcome State Fault Refusal :=
  if s.cfg.wf then nextEvent s else .refused .configurationNotAccepted

/-- Where `withFetchWord` stores: at PC, or at 0x200 when PC is above 0xFFE, where no word can stand. -/
def fetchAddress (s : State) : Word := if s.pc.toNat ≤ 0xFFE then s.pc else 0x0200

/-- `s` with a word of the opcode table stored where the next step fetches, so that this step fetches and runs it
(log 8): the next event listed is a Step with the inputs as they stand, RUN is Running, and a configuration that
`step` refuses is replaced by the default. -/
def State.withFetchWord (s : State) (nbits w : Nat) : State :=
  let cfg := if s.cfg.wf then s.cfg else Config.standard
  { s with
    cfg := cfg
    pc := fetchAddress s
    run := .running
    mem := Memory.writeBlock cfg s.mem (fetchAddress s).toNat (bytesOfWord (tableWord nbits w))
    env := { s.env with pending := .step s.env.keys s.env.rnd :: s.env.pending } }

end Sys2Proof.Machine
end

