-- ==== Sys2Proof/Machine/Clock.lean ====
section
/-! DEFINITION. The reference clocking (`70_reset_and_hazards.md` R222, R223), which the spec calls informative:
a source of event lists for `Env.pending`. It is not a part of State (`10_state.md` R33; log 15). -/

namespace Sys2Proof.Machine

/-- The two dividers: TICK_DIV, INSN_DIV and their counters (R222). -/
structure RefClock where
  tickDiv : Nat
  insnDiv : Nat
  divCnt : Nat
  insnCnt : Nat
deriving DecidableEq, Repr

/-- TICK_DIV = CLK_HZ / 60, INSN_DIV = CLK_HZ / IPS, both counters 0 as after reset (R222). DESIGN CHOICE (log 20):
both divisions round down, where the spec gives no rounding for a CLK_HZ that IPS does not divide; that CLK_HZ is a
multiple of 60 (R222) is not checked, and an `ips` of 0 gives the divider 0. -/
def refClock (clkHz ips : Nat) : RefClock :=
  { tickDiv := clkHz / 60, insnDiv := clkHz / ips, divCnt := 0, insnCnt := 0 }

/-- Whether a counter that counts 0 to div - 1 wraps in this cycle. -/
def counterWraps (cnt div : Nat) : Bool := decide (div ≤ cnt + 1)

/-- The counter after this cycle. -/
def counterNext (cnt div : Nat) : Nat := if counterWraps cnt div then 0 else cnt + 1

/-- The clock after one cycle. -/
def clockNext (c : RefClock) : RefClock :=
  { c with divCnt := counterNext c.divCnt c.tickDiv, insnCnt := counterNext c.insnCnt c.insnDiv }

/-- The events of one clock cycle in the order Tick, KeySample, Step (R223): a Tick when DIVCNT wraps, a
KeySample every cycle, a Step when the instruction counter wraps (R222). DESIGN CHOICE (log 22): the KeySample and
the Step of one cycle have the same key vector `keys`, where the spec does not say whether they do. -/
def clockEvents (c : RefClock) (keys : Word) (rnd : Byte) : List HostEvent :=
  (if counterWraps c.divCnt c.tickDiv then [.tick] else []) ++ [.keySample keys] ++
    (if counterWraps c.insnCnt c.insnDiv then [.step keys rnd] else [])

end Sys2Proof.Machine
end

