-- ==== Sys2Proof/Machine/Ports.lean ====
section
/-! DEFINITION. The core's outputs (`60_exceptions.md` R184), as functions of the state: none of them is state
(log 14). The debug view (R192) is State itself. -/

namespace Sys2Proof.Machine

/-- `tone` (R186): 1 exactly while ST > 0. -/
def tone (s : State) : Bool := decide (0 < s.st.toNat)

/-- `fb` (R187): the framebuffer, read only. -/
def fbOut (s : State) (x : Fin 64) (y : Fin 32) : Bool := pixel s.fb x y

/-- `run_state`: RUN as encoded by `10_state.md` R26; 3 is never produced. -/
def runCode : RunState → BitVec 2
  | .running => 0
  | .awaitingKey => 1
  | .halted => 2

/-- `run_state` of a state. -/
def runStateOut (s : State) : BitVec 2 := runCode s.run

/-- `rom_loaded` (`20_memory.md` R55): how many bytes of `rom` the Reset event writes, 0 to 3584. -/
def romLoaded (cfg : Config) (rom : List Byte) : Nat := (Memory.load cfg [] rom 0x200).2

/-- `fb_update` (`44_display.md` R143): whether a Step from this state completes a DXYN. -/
def fbUpdate (s : State) : Bool :=
  match s.run, fetch s with
  | .running, .ok w =>
    match decode w with
    | some (.drw _ _ n) => inBounds (indexAddress s) n.toNat
    | _ => false
  | _, _ => false

end Sys2Proof.Machine
end

