-- ==== Sys2Proof/Safety.lean ====
section
/-! DEFINITION. What counts as a safe run, the invariant of the machine, what it is to leave a piece of state
unchanged, and runs under a schedule of events. -/

namespace Sys2Proof

open Sys2Proof.Machine

/-- A state is safe while no fault is recorded: FAULT_CODE is 0 (`10_state.md` R27). -/
def Safe (s : State) : Prop := s.fault.code = 0

/-- The invariant: what holds of every state a run can reach from reset. -/
structure Inv (s : State) : Prop where
  /-- The configuration is one the spec accepts (`93_implementation_defined.md` U4 to U6). -/
  config : s.cfg.wf = true
  /-- MEM is in its canonical form. -/
  memory : Memory.wf s.cfg s.mem = true
  /-- "I ≤ 0x0FFF in every reachable state" (`10_state.md` R15). -/
  index : s.i.toNat ≤ 0x0FFF
  /-- The greatest PC is BNNN's 0xFFF + 0xFF (`10_state.md` R17). -/
  counter : s.pc.toNat ≤ 0x10FE
  /-- STACK has STACK_DEPTH entries (`10_state.md` R19). -/
  entries : s.stack.length = s.cfg.stackDepth
  /-- 0 ≤ SP ≤ STACK_DEPTH (`10_state.md` R19). -/
  depth : s.sp ≤ s.cfg.stackDepth
  /-- A live entry is "always a call address + 2, so it lies in 0x0002 to 0x1000" (`41_control_flow.md` R100). -/
  returns : ∀ w ∈ s.stack.take s.sp, 0x0002 ≤ w.toNat ∧ w.toNat ≤ 0x1000
  /-- "Codes 5 to 7 are never produced" (`60_exceptions.md` R170). -/
  codes : s.fault.code.toNat ≤ 4
  /-- A recorded fault has halted the core at its instruction: "PC == a == FAULT_PC" (`60_exceptions.md` R178). -/
  faulted : s.fault.code ≠ 0 → s.run = .halted ∧ s.fault.pc = s.pc
  /-- With no fault recorded, FAULT_PC and FAULT_INSN are as reset left them (`60_exceptions.md` R170). -/
  unfaulted : s.fault.code = 0 → s.fault.pc = 0 ∧ s.fault.insn = 0
  /-- Before the first skipped opcode, UNIMPL_PC and UNIMPL_INSN are as reset left them (`10_state.md` R28). -/
  unseen : s.unimpl.seen = false → s.unimpl.pc = 0 ∧ s.unimpl.insn = 0
  /-- "Under the halt policy these three registers are never written" (`10_state.md` R28). -/
  haltPolicy : s.straps.unimplHalt = true → s.unimpl.seen = false

/-! ### Frames: `Keeps… s t` says that a piece of state is the same in `s` and in `t`. -/

/-- Every V register but those listed. -/
def KeepsRegsBut (xs : List Reg) (s t : State) : Prop := ∀ r, r ∉ xs → t.reg r = s.reg r

/-- I. -/
def KeepsIndex (s t : State) : Prop := t.i = s.i

/-- STACK and SP. -/
def KeepsStack (s t : State) : Prop := t.stack = s.stack ∧ t.sp = s.sp

/-- DT and ST. -/
def KeepsTimers (s t : State) : Prop := t.dt = s.dt ∧ t.st = s.st

/-- Every pixel. -/
def KeepsScreen (s t : State) : Prop := ∀ x y, pixel t.fb x y = pixel s.fb x y

/-- Every byte of MEM. -/
def KeepsMemory (s t : State) : Prop := ∀ a, t.byteAt a = s.byteAt a

/-- Every byte of MEM but the `n` bytes from `a` on. -/
def KeepsMemoryOutside (a n : Nat) (s t : State) : Prop := ∀ b, b < a ∨ a + n ≤ b → t.byteAt b = s.byteAt b

/-- RUN, WAIT_X and KEY_PREV. -/
def KeepsRunState (s t : State) : Prop := t.run = s.run ∧ t.waitX = s.waitX ∧ t.keyPrev = s.keyPrev

/-- FAULT_CODE, FAULT_PC, FAULT_INSN, UNIMPL_SEEN, UNIMPL_PC, UNIMPL_INSN. -/
def KeepsRecords (s t : State) : Prop := t.fault = s.fault ∧ t.unimpl = s.unimpl

/-- The straps, the configuration and the environment. -/
def KeepsSetup (s t : State) : Prop := t.straps = s.straps ∧ t.cfg = s.cfg ∧ t.env = s.env

/-- Everything but V, I, PC, STACK, SP, DT, ST, FB and MEM. -/
def KeepsControl (s t : State) : Prop := KeepsRunState s t ∧ KeepsRecords s t ∧ KeepsSetup s t

/-- Everything but V and PC. -/
def KeepsAllButRegs (s t : State) : Prop :=
  KeepsIndex s t ∧ KeepsStack s t ∧ KeepsTimers s t ∧ KeepsScreen s t ∧ KeepsMemory s t ∧ KeepsControl s t

/-- PC advances by 2, the listed V registers may change, and nothing else does. -/
def OnlyRegsChange (xs : List Reg) (s t : State) : Prop :=
  t.pc = s.pc + 2 ∧ KeepsRegsBut xs s t ∧ KeepsAllButRegs s t

/-- Nothing but PC changes. -/
def OnlyPcChanges (s t : State) : Prop := KeepsRegsBut [] s t ∧ KeepsAllButRegs s t

/-- The instructions that can raise a fault: "2NNN only StackOverflow, 00EE only StackUnderflow, DXYN, FX33, FX55,
FX65 only AddressError, every other instruction none" (`60_exceptions.md` R177). -/
def MayFault (i : Instr) : Prop :=
  i = .ret ∨ (∃ nnn, i = .call nnn) ∨ (∃ x y n, i = .drw x y n) ∨ (∃ x, i = .ldBVx x ∨ i = .ldMemVx x ∨ i = .ldVxMem x)

/-- The instructions that name V[r] as a register they write: as the destination X, as the flag register beside a
result, or in the block of FX65 (`10_state.md` R10 row 1, R13). FX0A writes V[X] later, by KeySample. -/
def MayWriteReg (r : Reg) (i : Instr) : Prop :=
  (∃ nn, i = .ldVxNn r nn ∨ i = .addVxNn r nn ∨ i = .rnd r nn) ∨
  (∃ y, i = .ldVxVy r y ∨ i = .or r y ∨ i = .and r y ∨ i = .xor r y) ∨
  (∃ x y, (i = .addVxVy x y ∨ i = .sub x y ∨ i = .shr x y ∨ i = .subn x y ∨ i = .shl x y) ∧ (r = x ∨ r = 0xF)) ∨
  (∃ x y n, i = .drw x y n ∧ r = 0xF) ∨ i = .ldVxDt r ∨ (∃ x, i = .ldVxMem x ∧ r.val ≤ x.val)

/-- The core has halted with the fault `f` at the instruction `insn`, which had no effect: RUN is Halted, the fault
record carries the fault's code, the PC and the word, and nothing else changed (`60_exceptions.md` R178; its
decisions D3 and D4). -/
def HaltsUnchanged (f : Fault) (insn : Word) (s t : State) : Prop :=
  t = { s with run := .halted, fault := { code := faultCode f, pc := s.pc, insn := insn } }

/-- A set bit of the `n`-row sprite at I covers the cell (px, py) when the sprite's top left corner is at
(x0, y0) (`44_display.md` R142). -/
def SpriteCovers (s : State) (x0 y0 n : Nat) (px : Fin 64) (py : Fin 32) : Prop :=
  ∃ row col, row < n ∧ col < 8 ∧ (s.byteAt (indexAddress s + row)).getLsbD (7 - col) = true ∧
    px.val = (x0 + col) % 64 ∧ py.val = (y0 + row) % 32

/-! ### Runs under a schedule -/

/-- The states `σ` are a run under the events `sched`: every event is applied to the state the one before left
(`40_instruction_cycle.md` R80). -/
def RunsUnder (sched : Nat → HostEvent) (σ : Nat → State) : Prop :=
  ∀ n, applyEvent (sched n) (σ n) = .next (σ (n + 1))

/-- Whether an event is a Step. -/
def HostEvent.isStep : HostEvent → Bool
  | .step _ _ => true
  | .reset _ _ => false
  | .tick => false
  | .keySample _ => false
  | .stop => false

/-- Fairness (`70_reset_and_hazards.md` R221): Tick events occur infinitely often, and so do Step events while the
core is Running (log 17). -/
def Fair (sched : Nat → HostEvent) (σ : Nat → State) : Prop :=
  (∀ n, ∃ m, n ≤ m ∧ sched m = .tick) ∧
    ∀ n, (∀ m, n ≤ m → (σ m).run = .running) → ∃ m, n ≤ m ∧ HostEvent.isStep (sched m) = true

end Sys2Proof
end

