-- ==== Sys2Proof/Certificates/Slice0/Obligations.lean ====
section
/-! DEFINITION. The statements for the provers, from the numbered rules of the spec. `exec i s` takes the state
before the Step: `s.pc` is the address the instruction was fetched from. -/

open Sys2Proof Sys2Proof.Machine

/-! ### Encoding -/

/-- Every instruction, with every operand at every value, is read back from its word and from its bytes
(`30_encoding.md` R60 to R65). -/
def Obligations.DecodeInvertsEncode : Prop :=
  ∀ (i : Instr) (rest : List Byte), i.wf = true →
    decode (encode i) = some i ∧ decodeBytes (encodeBytes i ++ rest) = .ok (i, rest)

/-- Every assigned word has one meaning, and that instruction's word is the word itself: so FAULT_INSN, which the
model computes from the instruction, is the word that was fetched (log 11). -/
def Obligations.EncodeInvertsDecode : Prop :=
  ∀ (w : Word) (i : Instr), decode w = some i → encode i = w

/-- The decoder is the opcode table: no word matches two rows, an assigned word matches the row with its
instruction's mnemonic, and a word that matches a row is assigned (`30_encoding.md` R64, R65). -/
def Obligations.DecodeFollowsOpcodeRows : Prop :=
  opcodeRows.length = 34 ∧
    (∀ (w : Word) (r r' : OpcodeRow), r ∈ opcodeRows → r' ∈ opcodeRows → r.matches w = true →
      r'.matches w = true → r = r') ∧
    (∀ (w : Word) (i : Instr), decode w = some i →
      ∃ r ∈ opcodeRows, r.mnemonic = i.mnemonic ∧ r.matches w = true) ∧
    (∀ (w : Word) (r : OpcodeRow), r ∈ opcodeRows → r.matches w = true →
      ∃ i, decode w = some i ∧ i.mnemonic = r.mnemonic)

/-- The unassigned words are exactly those of the table of `30_encoding.md` R66. -/
def Obligations.UnassignedWordsAreThoseOfTheTable : Prop :=
  ∀ w : Word, decode w = none ↔
    (w.toNat / 0x1000 = 0x0 ∧ w.toNat ≠ 0x00E0 ∧ w.toNat ≠ 0x00EE) ∨
    (w.toNat / 0x1000 = 0x5 ∧ w.toNat % 0x10 ≠ 0) ∨
    (w.toNat / 0x1000 = 0x8 ∧ w.toNat % 0x10 ∈ [0x8, 0x9, 0xA, 0xB, 0xC, 0xD, 0xF]) ∨
    (w.toNat / 0x1000 = 0x9 ∧ w.toNat % 0x10 ≠ 0) ∨
    (w.toNat / 0x1000 = 0xE ∧ w.toNat % 0x100 ∉ [0x9E, 0xA1]) ∨
    (w.toNat / 0x1000 = 0xF ∧
      w.toNat % 0x100 ∉ [0x07, 0x0A, 0x15, 0x18, 0x1E, 0x29, 0x33, 0x55, 0x65])

/-- Words written out from the patterns decode to the instructions they stand for (`95_test_vectors.md`,
section 2.1). -/
def Obligations.WordsOfTheVectorsDecode : Prop :=
  decode 0x00E0 = some .cls ∧ decode 0x00EE = some .ret ∧ decode 0x10E0 = some (.jp 0x0E0) ∧
    decode 0x5120 = some (.seVxVy 1 2) ∧ decode 0x9AB0 = some (.sneVxVy 0xA 0xB) ∧
    decode 0x812E = some (.shl 1 2) ∧ decode 0xD12A = some (.drw 1 2 0xA) ∧ decode 0xE09E = some (.skp 0) ∧
    decode 0xEFA1 = some (.sknp 0xF) ∧ decode 0xFF65 = some (.ldVxMem 0xF) ∧ decode 0x5121 = none ∧
    decode 0x812F = none ∧ decode 0x01E0 = none ∧ decode 0xF066 = none

/-! ### Memory and the call stack -/

/-- The bounds-checked primitives MemRead(a, 1), MemRead(a, 2) and MemWrite(a, 1, v). -/
def Obligations.CheckedMemoryPrimitives : Prop :=
  ∀ (s : State) (a : Nat) (b : Byte),
    (0xFFF < a → memRead s a 1 = .error .addressError ∧ memWrite s a [b] = .error .addressError) ∧
    (a ≤ 0xFFF → memRead s a 1 = .ok [s.byteAt a] ∧
      ∃ t, memWrite s a [b] = .ok t ∧ t.byteAt a = b ∧ (∀ c, c ≠ a → t.byteAt c = s.byteAt c) ∧
        t = { s with mem := t.mem }) ∧
    (0xFFF < a + 1 → memRead16 s a = .error .addressError) ∧
    (a + 1 ≤ 0xFFF → ∃ w, memRead16 s a = .ok w ∧
      w.toNat = 0x100 * (s.byteAt a).toNat + (s.byteAt (a + 1)).toNat)

/-- Push and Pop. -/
def Obligations.PushAndPopCallStack : Prop :=
  ∀ (s : State) (w : Word),
    (s.sp = s.cfg.stackDepth → push s w = .error .stackOverflow) ∧
    (s.sp < s.cfg.stackDepth → s.stack.length = s.cfg.stackDepth →
      ∃ t, push s w = .ok t ∧ t.sp = s.sp + 1 ∧ t.stack[s.sp]? = some w ∧
        (∀ k, k ≠ s.sp → t.stack[k]? = s.stack[k]?) ∧ t = { s with stack := t.stack, sp := t.sp }) ∧
    (s.sp = 0 → pop s = .error .stackUnderflow) ∧
    (0 < s.sp → s.stack[s.sp - 1]? = some w → pop s = .ok (w, { s with sp := s.sp - 1 }))

/-! ### The step -/

/-- A step whose next event is a Step, on a Running core whose word at PC is an instruction, is that instruction's
meaning on the state with the event taken off the list and its inputs sampled. With nothing listed, it is the
meaning after a free number of Ticks and with free inputs (the model's choice, log 2). -/
def Obligations.StepRunsDecodedInstruction : Prop :=
  ∀ (s : State) (i : Instr) (keys : Word) (rnd : Byte) (rest : List HostEvent),
    s.cfg.wf = true → s.run = .running → s.pc.toNat ≤ 0xFFE →
    decode (wordOfBytes (s.byteAt s.pc.toNat) (s.byteAt (s.pc.toNat + 1))) = some i →
    (s.env.pending = .step keys rnd :: rest →
      step s = exec i { s with env := { s.env with keys := keys, rnd := rnd, pending := rest } }) ∧
    (s.env.pending = [] →
      step s = exec i
        { ticks (Config.freeTicks s.env.draws) s with
          env := { s.env with
            keys := Config.freeKeys s.env.draws
            rnd := Config.freeRnd s.env.draws
            draws := s.env.draws + 1 } })

/-- A Step whose fetch leaves memory enters AddressError at PC with the word 0x0000 (`40_instruction_cycle.md`
R83; the codes and the record are the spec's decision D4, the precise abort its decision D3). -/
def Obligations.FetchAboveMemoryFaults : Prop :=
  ∀ (s : State) (keys : Word) (rnd : Byte) (rest : List HostEvent),
    s.cfg.wf = true → s.run = .running → s.env.pending = .step keys rnd :: rest → 0xFFE < s.pc.toNat →
    step s = .next { s with
      run := .halted
      fault := { code := 1, pc := s.pc, insn := 0x0000 }
      env := { s.env with keys := keys, rnd := rnd, pending := rest } }

/-- An unassigned word halts the core under UNIMPL_HALT = 1 and is skipped and recorded under UNIMPL_HALT = 0
(`60_exceptions.md` R176; the strap and the records are the spec's decision D6, the codes D4). -/
def Obligations.UnassignedWordFollowsPolicy : Prop :=
  ∀ (s : State) (keys : Word) (rnd : Byte) (rest : List HostEvent) (w : Word),
    s.cfg.wf = true → s.run = .running → s.env.pending = .step keys rnd :: rest → s.pc.toNat ≤ 0xFFE →
    w = wordOfBytes (s.byteAt s.pc.toNat) (s.byteAt (s.pc.toNat + 1)) → decode w = none →
    (s.straps.unimplHalt = true → step s = .next { s with
      run := .halted
      fault := { code := 4, pc := s.pc, insn := w }
      env := { s.env with keys := keys, rnd := rnd, pending := rest } }) ∧
    (s.straps.unimplHalt = false → step s = .next { s with
      pc := s.pc + 2
      unimpl := { seen := true, pc := s.pc, insn := w }
      env := { s.env with keys := keys, rnd := rnd, pending := rest } })

/-- A Step while RUN is not Running changes nothing of the core (`40_instruction_cycle.md` R81; the spec's
decision D30): only the model's own record of the environment moves on. -/
def Obligations.StepOutsideRunningChangesNothing : Prop :=
  ∀ (s : State) (keys : Word) (rnd : Byte) (rest : List HostEvent),
    s.cfg.wf = true → s.run ≠ .running → s.env.pending = .step keys rnd :: rest →
    step s = .next { s with env := { s.env with keys := keys, rnd := rnd, pending := rest } }

/-- Faults are precise: a Step that takes a Running core to Halted changes RUN and the fault record and nothing
else, and the record carries PC, the fetched word (0x0000 when the fetch itself faulted) and a code that is not 0
(`60_exceptions.md` R178; the spec's decisions D3 and D4). -/
def Obligations.FaultingStepIsPrecise : Prop :=
  ∀ (s t : State) (keys : Word) (rnd : Byte) (rest : List HostEvent),
    s.run = .running → s.env.pending = .step keys rnd :: rest → step s = .next t → t.run = .halted →
    t = { s with
      run := .halted
      fault := t.fault
      env := { s.env with keys := keys, rnd := rnd, pending := rest } } ∧
    t.fault.pc = s.pc ∧ t.fault.code ≠ 0 ∧
    t.fault.insn =
      (if s.pc.toNat ≤ 0xFFE then wordOfBytes (s.byteAt s.pc.toNat) (s.byteAt (s.pc.toNat + 1)) else 0x0000)

/-- What makes a Running core enter each fault, and that nothing else does (`60_exceptions.md` R170 to R177; the
numbers are the spec's decision D4, the bounds its decision D2). -/
def Obligations.EachFaultHasItsCauses : Prop :=
  ∀ (s t : State) (keys : Word) (rnd : Byte) (rest : List HostEvent) (w : Word),
    s.run = .running → s.env.pending = .step keys rnd :: rest → step s = .next t →
    w = wordOfBytes (s.byteAt s.pc.toNat) (s.byteAt (s.pc.toNat + 1)) →
    ((t.run = .halted ∧ t.fault.code = 1) ↔
      (0xFFE < s.pc.toNat ∨
        (∃ x y n, decode w = some (.drw x y n) ∧ 0 < n.toNat ∧ 0xFFF < s.i.toNat + n.toNat - 1) ∨
        (∃ x, decode w = some (.ldBVx x) ∧ 0xFFF < s.i.toNat + 2) ∨
        (∃ x, (decode w = some (.ldMemVx x) ∨ decode w = some (.ldVxMem x)) ∧ 0xFFF < s.i.toNat + x.val))) ∧
    ((t.run = .halted ∧ t.fault.code = 2) ↔
      (s.pc.toNat ≤ 0xFFE ∧ ∃ nnn, decode w = some (.call nnn) ∧ s.sp = s.cfg.stackDepth)) ∧
    ((t.run = .halted ∧ t.fault.code = 3) ↔
      (s.pc.toNat ≤ 0xFFE ∧ decode w = some .ret ∧ s.sp = 0)) ∧
    ((t.run = .halted ∧ t.fault.code = 4) ↔
      (s.pc.toNat ≤ 0xFFE ∧ decode w = none ∧ s.straps.unimplHalt = true)) ∧
    (t.run = .halted → t.fault.code = 1 ∨ t.fault.code = 2 ∨ t.fault.code = 3 ∨ t.fault.code = 4)

/-- The machine never gets stuck: every step of an accepted configuration answers a next state, and a
configuration outside the spec's constraints is refused (the model's choice of where to refuse, log 6). -/
def Obligations.StepAlwaysAnswers : Prop :=
  ∀ s : State,
    (s.cfg.wf = true → ∃ t, step s = .next t) ∧
    (s.cfg.wf = false → step s = .refused .configurationNotAccepted)

/-- The invariant holds of the state after reset. -/
def Obligations.ResetMeetsInvariant : Prop := Inv State.reset

/-- Every step keeps the invariant: canonical memory, I ≤ 0xFFF, PC ≤ 0x10FE, a well-shaped stack with call
addresses + 2 in it, and fault and skip records that agree with RUN, PC and the straps. -/
def Obligations.StepKeepsInvariant : Prop :=
  ∀ s t : State, Inv s → step s = .next t → Inv t

/-- Which instructions write which state (the columns "written by" of `10_state.md` R10; PC is written by every Step):
an instruction that changes RUN either is FX0A and suspends, "the only instruction that suspends forward progress"
(`40_instruction_cycle.md` R81), or halts the core by a fault, and only with such a halt does it change the fault
record (the record is the spec's decision D4; that FX55 and FX65 do not write I its decision D17). -/
def Obligations.OnlyNamedInstructionsWrite : Prop :=
  ∀ (i : Instr) (s t : State), exec i s = .next t →
    (∀ r, t.reg r ≠ s.reg r → MayWriteReg r i) ∧
    (t.i ≠ s.i → (∃ nnn, i = .ldINnn nnn) ∨ (∃ x, i = .addIVx x) ∨ (∃ x, i = .ldFVx x)) ∧
    (t.stack ≠ s.stack → ∃ nnn, i = .call nnn) ∧
    (t.sp ≠ s.sp → i = .ret ∨ ∃ nnn, i = .call nnn) ∧
    (t.dt ≠ s.dt → ∃ x, i = .ldDtVx x) ∧
    (t.st ≠ s.st → ∃ x, i = .ldStVx x) ∧
    (t.fb ≠ s.fb → i = .cls ∨ ∃ x y n, i = .drw x y n) ∧
    (t.mem ≠ s.mem → (∃ x, i = .ldBVx x) ∨ ∃ x, i = .ldMemVx x) ∧
    ((t.waitX ≠ s.waitX ∨ t.keyPrev ≠ s.keyPrev) → ∃ x, i = .ldVxK x) ∧
    (t.run ≠ s.run → (t.run = .awaitingKey ∧ ∃ x, i = .ldVxK x) ∨ (t.run = .halted ∧ MayFault i)) ∧
    (t.fault ≠ s.fault → t.run = .halted ∧ MayFault i) ∧
    t.unimpl = s.unimpl ∧ t.straps = s.straps ∧ t.cfg = s.cfg ∧ t.env = s.env

/-- The flag register is written as a flag by 8XY4, 8XY5, 8XY6, 8XY7, 8XYE and DXYN only, always with 0x00 or
0x01; any other instruction that changes V[0xF] names it as its destination (`10_state.md` R13). -/
def Obligations.FlagRegisterHasItsWriters : Prop :=
  ∀ (i : Instr) (s t : State), exec i s = .next t →
    (∀ x y, i = .addVxVy x y ∨ i = .sub x y ∨ i = .shr x y ∨ i = .subn x y ∨ i = .shl x y →
      t.reg 0xF = 0x00 ∨ t.reg 0xF = 0x01) ∧
    (∀ x y n, i = .drw x y n → n.toNat = 0 ∨ indexAddress s + n.toNat - 1 ≤ 0xFFF →
      t.reg 0xF = 0x00 ∨ t.reg 0xF = 0x01) ∧
    (t.reg 0xF ≠ s.reg 0xF →
      (∃ x y, i = .addVxVy x y ∨ i = .sub x y ∨ i = .shr x y ∨ i = .subn x y ∨ i = .shl x y) ∨
      (∃ x y n, i = .drw x y n) ∨
      (∃ nn, i = .ldVxNn 0xF nn ∨ i = .addVxNn 0xF nn ∨ i = .rnd 0xF nn) ∨
      (∃ y, i = .ldVxVy 0xF y ∨ i = .or 0xF y ∨ i = .and 0xF y ∨ i = .xor 0xF y) ∨
      i = .ldVxDt 0xF ∨ i = .ldVxMem 0xF)

/-- A Step depends on `keys` only through EX9E, EXA1 and FX0A and on `rnd` only through CXNN: with any other
environment, every other instruction does the same (`40_instruction_cycle.md` R89). -/
def Obligations.InputsReachOnlyTheirInstructions : Prop :=
  ∀ (i : Instr) (s t : State) (e : Env),
    (e.keys = s.env.keys ∨ ∀ x, i ≠ .skp x ∧ i ≠ .sknp x ∧ i ≠ .ldVxK x) →
    (e.rnd = s.env.rnd ∨ ∀ x nn, i ≠ .rnd x nn) →
    exec i s = .next t → exec i { s with env := e } = .next { t with env := e }

/-! ### Arithmetic and logic -/

/-- 6XNN and 7XNN: the value, no flag, and the frame. -/
def Obligations.ImmediateLoadAndAdd : Prop :=
  ∀ (s : State) (x : Reg) (nn : Byte),
    ((encode (.ldVxNn x nn)).toNat = 0x6000 + 0x100 * x.val + nn.toNat ∧
      ∃ t, exec (.ldVxNn x nn) s = .next t ∧ t.reg x = nn ∧ OnlyRegsChange [x] s t) ∧
    ((encode (.addVxNn x nn)).toNat = 0x7000 + 0x100 * x.val + nn.toNat ∧
      ∃ t, exec (.addVxNn x nn) s = .next t ∧ (t.reg x).toNat = ((s.reg x).toNat + nn.toNat) % 256 ∧
        OnlyRegsChange [x] s t)

/-- 8XY0 to 8XY3: the value, no flag, and the frame. -/
def Obligations.RegisterCopyAndLogic : Prop :=
  ∀ (s : State) (x y : Reg),
    ((encode (.ldVxVy x y)).toNat = 0x8000 + 0x100 * x.val + 0x10 * y.val ∧
      ∃ t, exec (.ldVxVy x y) s = .next t ∧ t.reg x = s.reg y ∧ OnlyRegsChange [x] s t) ∧
    ((encode (.or x y)).toNat = 0x8001 + 0x100 * x.val + 0x10 * y.val ∧
      ∃ t, exec (.or x y) s = .next t ∧
        (∀ k, (t.reg x).getLsbD k = ((s.reg x).getLsbD k || (s.reg y).getLsbD k)) ∧ OnlyRegsChange [x] s t) ∧
    ((encode (.and x y)).toNat = 0x8002 + 0x100 * x.val + 0x10 * y.val ∧
      ∃ t, exec (.and x y) s = .next t ∧
        (∀ k, (t.reg x).getLsbD k = ((s.reg x).getLsbD k && (s.reg y).getLsbD k)) ∧ OnlyRegsChange [x] s t) ∧
    ((encode (.xor x y)).toNat = 0x8003 + 0x100 * x.val + 0x10 * y.val ∧
      ∃ t, exec (.xor x y) s = .next t ∧
        (∀ k, (t.reg x).getLsbD k = ((s.reg x).getLsbD k != (s.reg y).getLsbD k)) ∧ OnlyRegsChange [x] s t)

/-- 8XY4: the sum modulo 256 in V[X] unless X is 0xF, the carry in V[0xF], and the frame. -/
def Obligations.AddSetsCarryLast : Prop :=
  ∀ (s : State) (x y : Reg),
    (encode (.addVxVy x y)).toNat = 0x8004 + 0x100 * x.val + 0x10 * y.val ∧
      ∃ t, exec (.addVxVy x y) s = .next t ∧
        (x ≠ 0xF → (t.reg x).toNat = ((s.reg x).toNat + (s.reg y).toNat) % 256) ∧
        t.reg 0xF = (if 255 < (s.reg x).toNat + (s.reg y).toNat then 1 else 0) ∧ OnlyRegsChange [x, 0xF] s t

/-- 8XY5 and 8XY7: the difference modulo 256 in V[X] unless X is 0xF, no borrow in V[0xF], and the frame. -/
def Obligations.SubtractSetsNoBorrowLast : Prop :=
  ∀ (s : State) (x y : Reg),
    ((encode (.sub x y)).toNat = 0x8005 + 0x100 * x.val + 0x10 * y.val ∧
      ∃ t, exec (.sub x y) s = .next t ∧
        (x ≠ 0xF → (t.reg x).toNat = ((s.reg x).toNat + 256 - (s.reg y).toNat) % 256) ∧
        t.reg 0xF = (if (s.reg y).toNat ≤ (s.reg x).toNat then 1 else 0) ∧ OnlyRegsChange [x, 0xF] s t) ∧
    ((encode (.subn x y)).toNat = 0x8007 + 0x100 * x.val + 0x10 * y.val ∧
      ∃ t, exec (.subn x y) s = .next t ∧
        (x ≠ 0xF → (t.reg x).toNat = ((s.reg y).toNat + 256 - (s.reg x).toNat) % 256) ∧
        t.reg 0xF = (if (s.reg x).toNat ≤ (s.reg y).toNat then 1 else 0) ∧ OnlyRegsChange [x, 0xF] s t)

/-- 8XY6 and 8XYE: the operand is V[X], or V[Y] when SHIFT_SRC_VY is 1 (the spec's decision D7); the shifted value
in V[X] unless X is 0xF, the bit moved out in V[0xF], and the frame. -/
def Obligations.ShiftsSetBitMovedOutLast : Prop :=
  ∀ (s : State) (x y : Reg) (src : Byte),
    src = (if s.straps.shiftSrcVy = true then s.reg y else s.reg x) →
    ((encode (.shr x y)).toNat = 0x8006 + 0x100 * x.val + 0x10 * y.val ∧
      ∃ t, exec (.shr x y) s = .next t ∧ (x ≠ 0xF → (t.reg x).toNat = src.toNat / 2) ∧
        (t.reg 0xF).toNat = src.toNat % 2 ∧ OnlyRegsChange [x, 0xF] s t) ∧
    ((encode (.shl x y)).toNat = 0x800E + 0x100 * x.val + 0x10 * y.val ∧
      ∃ t, exec (.shl x y) s = .next t ∧ (x ≠ 0xF → (t.reg x).toNat = 2 * src.toNat % 256) ∧
        (t.reg 0xF).toNat = src.toNat / 128 ∧ OnlyRegsChange [x, 0xF] s t)

/-- CXNN: the Step's random byte, any byte (the spec's decision D10), masked by NN only, and the frame. -/
def Obligations.RandomByteIsMasked : Prop :=
  ∀ (s : State) (x : Reg) (nn : Byte),
    (encode (.rnd x nn)).toNat = 0xC000 + 0x100 * x.val + nn.toNat ∧
      ∃ t, exec (.rnd x nn) s = .next t ∧
        (∀ k, (t.reg x).getLsbD k = (s.env.rnd.getLsbD k && nn.getLsbD k)) ∧ t.reg x &&& ~~~nn = 0 ∧
        OnlyRegsChange [x] s t

/-! ### Control flow -/

/-- 1NNN: PC is NNN, and nothing else changes. -/
def Obligations.JumpGoesToTarget : Prop :=
  ∀ (s : State) (nnn : BitVec 12),
    (encode (.jp nnn)).toNat = 0x1000 + nnn.toNat ∧
      ∃ t, exec (.jp nnn) s = .next t ∧ t.pc.toNat = nnn.toNat ∧ OnlyPcChanges s t

/-- 2NNN: with room on the stack, PC + 2 is pushed and PC is NNN; with the stack full, the core halts with
StackOverflow, the rest of its state as it was (the precise abort and the record are the spec's decisions D3, D4). -/
def Obligations.CallPushesReturnAddress : Prop :=
  ∀ (s : State) (nnn : BitVec 12),
    (encode (.call nnn)).toNat = 0x2000 + nnn.toNat ∧
    (s.sp < s.cfg.stackDepth → s.stack.length = s.cfg.stackDepth →
      ∃ t, exec (.call nnn) s = .next t ∧ t.pc.toNat = nnn.toNat ∧ t.sp = s.sp + 1 ∧
        t.stack[s.sp]? = some (s.pc + 2) ∧ (∀ k, k ≠ s.sp → t.stack[k]? = s.stack[k]?) ∧
        KeepsRegsBut [] s t ∧ KeepsIndex s t ∧ KeepsTimers s t ∧ KeepsScreen s t ∧ KeepsMemory s t ∧
        KeepsControl s t) ∧
    (s.sp = s.cfg.stackDepth →
      ∃ t, exec (.call nnn) s = .next t ∧ HaltsUnchanged .stackOverflow (encode (.call nnn)) s t)

/-- 00EE: with an entry on the stack, PC is the top entry, unmasked, and SP drops by 1, the entry staying in its
slot; with the stack empty, the core halts with StackUnderflow, the rest of its state as it was (the precise abort
and the record are the spec's decisions D3, D4). -/
def Obligations.ReturnPopsReturnAddress : Prop :=
  ∀ (s : State) (w : Word),
    (encode .ret).toNat = 0x00EE ∧
    (0 < s.sp → s.stack[s.sp - 1]? = some w →
      ∃ t, exec .ret s = .next t ∧ t.pc = w ∧ t.sp = s.sp - 1 ∧ t.stack = s.stack ∧
        KeepsRegsBut [] s t ∧ KeepsIndex s t ∧ KeepsTimers s t ∧ KeepsScreen s t ∧ KeepsMemory s t ∧
        KeepsControl s t) ∧
    (s.sp = 0 → ∃ t, exec .ret s = .next t ∧ HaltsUnchanged .stackUnderflow (encode .ret) s t)

/-- A call and then a return with the stack as the call left it come back to the instruction after the call with
the stack depth of before (the source's property P5, `95_test_vectors.md`). -/
def Obligations.ReturnComesBackAfterCall : Prop :=
  ∀ (s t t' : State) (nnn : BitVec 12),
    s.sp < s.cfg.stackDepth → s.stack.length = s.cfg.stackDepth → exec (.call nnn) s = .next t →
    t'.sp = t.sp → t'.stack = t.stack →
    ∃ u, exec .ret t' = .next u ∧ u.pc = s.pc + 2 ∧ u.sp = s.sp

/-- 3XNN, 4XNN, 5XY0 and 9XY0: PC + 4 when the condition holds, PC + 2 when it does not; nothing else changes. -/
def Obligations.SkipsFollowTheirConditions : Prop :=
  ∀ (s : State) (x y : Reg) (nn : Byte),
    ((encode (.seVxNn x nn)).toNat = 0x3000 + 0x100 * x.val + nn.toNat ∧
      ∃ t, exec (.seVxNn x nn) s = .next t ∧ t.pc = (if s.reg x = nn then s.pc + 4 else s.pc + 2) ∧
        OnlyPcChanges s t) ∧
    ((encode (.sneVxNn x nn)).toNat = 0x4000 + 0x100 * x.val + nn.toNat ∧
      ∃ t, exec (.sneVxNn x nn) s = .next t ∧ t.pc = (if s.reg x ≠ nn then s.pc + 4 else s.pc + 2) ∧
        OnlyPcChanges s t) ∧
    ((encode (.seVxVy x y)).toNat = 0x5000 + 0x100 * x.val + 0x10 * y.val ∧
      ∃ t, exec (.seVxVy x y) s = .next t ∧ t.pc = (if s.reg x = s.reg y then s.pc + 4 else s.pc + 2) ∧
        OnlyPcChanges s t) ∧
    ((encode (.sneVxVy x y)).toNat = 0x9000 + 0x100 * x.val + 0x10 * y.val ∧
      ∃ t, exec (.sneVxVy x y) s = .next t ∧ t.pc = (if s.reg x ≠ s.reg y then s.pc + 4 else s.pc + 2) ∧
        OnlyPcChanges s t)

/-- BNNN: PC is NNN + V[0], not reduced (the spec's decision D8); nothing else changes. -/
def Obligations.ComputedJumpAddsVZero : Prop :=
  ∀ (s : State) (nnn : BitVec 12),
    (encode (.jpV0 nnn)).toNat = 0xB000 + nnn.toNat ∧
      ∃ t, exec (.jpV0 nnn) s = .next t ∧ t.pc.toNat = nnn.toNat + (s.reg 0).toNat ∧ OnlyPcChanges s t

/-- Even stays even: from an even PC and even stack entries, an instruction whose target, if it has one, is even
leaves an even PC and even stack entries (the source's PC parity invariant as `10_state.md` R18 conditions it; that
an odd PC is legal is the spec's decision D9). -/
def Obligations.EvenTargetsKeepPcEven : Prop :=
  ∀ (i : Instr) (s t : State),
    s.pc.toNat % 2 = 0 → (∀ w ∈ s.stack, w.toNat % 2 = 0) →
    (∀ nnn, i = .jp nnn ∨ i = .call nnn → nnn.toNat % 2 = 0) →
    (∀ nnn, i = .jpV0 nnn → (nnn.toNat + (s.reg 0).toNat) % 2 = 0) →
    exec i s = .next t → t.pc.toNat % 2 = 0 ∧ ∀ w ∈ t.stack, w.toNat % 2 = 0

/-! ### Index register and memory -/

/-- ANNN and FX1E: the value of I, no flag, and the frame. -/
def Obligations.IndexLoadAndAdd : Prop :=
  ∀ (s : State) (nnn : BitVec 12) (x : Reg),
    ((encode (.ldINnn nnn)).toNat = 0xA000 + nnn.toNat ∧
      ∃ t, exec (.ldINnn nnn) s = .next t ∧ t.i.toNat = nnn.toNat ∧ t.pc = s.pc + 2 ∧ KeepsRegsBut [] s t ∧
        KeepsStack s t ∧ KeepsTimers s t ∧ KeepsScreen s t ∧ KeepsMemory s t ∧ KeepsControl s t) ∧
    ((encode (.addIVx x)).toNat = 0xF01E + 0x100 * x.val ∧
      ∃ t, exec (.addIVx x) s = .next t ∧ t.i.toNat = (s.i.toNat + (s.reg x).toNat) % 4096 ∧ t.pc = s.pc + 2 ∧
        KeepsRegsBut [] s t ∧ KeepsStack s t ∧ KeepsTimers s t ∧ KeepsScreen s t ∧ KeepsMemory s t ∧
        KeepsControl s t)

/-- FX29: I is FONT_BASE + 5 * V[X], all 8 bits of V[X] used (the spec's decision D16), at most 0x6AB in an accepted
configuration, and the frame. -/
def Obligations.IndexPointsAtGlyph : Prop :=
  ∀ (s : State) (x : Reg), s.cfg.wf = true →
    (encode (.ldFVx x)).toNat = 0xF029 + 0x100 * x.val ∧
      ∃ t, exec (.ldFVx x) s = .next t ∧ t.i.toNat = s.cfg.fontBase + 5 * (s.reg x).toNat ∧
        t.i.toNat ≤ 0x6AB ∧ t.pc = s.pc + 2 ∧ KeepsRegsBut [] s t ∧ KeepsStack s t ∧ KeepsTimers s t ∧
        KeepsScreen s t ∧ KeepsMemory s t ∧ KeepsControl s t

/-- FX33: the decimal digits of V[X] at I, I + 1, I + 2, hundreds first (the spec's decision D21), every other byte
as before; when I + 2 is above 0xFFF no byte is written and the core halts (its decisions D2 and D3). -/
def Obligations.DecimalDigitsAreStored : Prop :=
  ∀ (s : State) (x : Reg),
    (encode (.ldBVx x)).toNat = 0xF033 + 0x100 * x.val ∧
    (indexAddress s + 2 ≤ 0xFFF →
      ∃ t, exec (.ldBVx x) s = .next t ∧ (t.byteAt (indexAddress s)).toNat = (s.reg x).toNat / 100 ∧
        (t.byteAt (indexAddress s + 1)).toNat = (s.reg x).toNat / 10 % 10 ∧
        (t.byteAt (indexAddress s + 2)).toNat = (s.reg x).toNat % 10 ∧
        KeepsMemoryOutside (indexAddress s) 3 s t ∧ t.pc = s.pc + 2 ∧ KeepsRegsBut [] s t ∧ KeepsIndex s t ∧
        KeepsStack s t ∧ KeepsTimers s t ∧ KeepsScreen s t ∧ KeepsControl s t) ∧
    (0xFFF < indexAddress s + 2 →
      ∃ t, exec (.ldBVx x) s = .next t ∧ HaltsUnchanged .addressError (encode (.ldBVx x)) s t)

/-- FX55: V[0] to V[X] at I to I + X, every other byte as before, I unchanged (the spec's decision D17); when I + X
is above 0xFFF no byte is written and the core halts (its decisions D2 and D3). -/
def Obligations.RegistersAreStored : Prop :=
  ∀ (s : State) (x : Reg),
    (encode (.ldMemVx x)).toNat = 0xF055 + 0x100 * x.val ∧
    (indexAddress s + x.val ≤ 0xFFF →
      ∃ t, exec (.ldMemVx x) s = .next t ∧
        (∀ k : Reg, k.val ≤ x.val → t.byteAt (indexAddress s + k.val) = s.reg k) ∧
        KeepsMemoryOutside (indexAddress s) (x.val + 1) s t ∧ t.pc = s.pc + 2 ∧ KeepsRegsBut [] s t ∧
        KeepsIndex s t ∧ KeepsStack s t ∧ KeepsTimers s t ∧ KeepsScreen s t ∧ KeepsControl s t) ∧
    (0xFFF < indexAddress s + x.val →
      ∃ t, exec (.ldMemVx x) s = .next t ∧ HaltsUnchanged .addressError (encode (.ldMemVx x)) s t)

/-- FX65: MEM[I] to MEM[I + X] in V[0] to V[X], the registers above X as before, I unchanged (the spec's decision
D17); when I + X is above 0xFFF no register is written and the core halts (its decisions D2 and D3). -/
def Obligations.RegistersAreLoaded : Prop :=
  ∀ (s : State) (x : Reg),
    (encode (.ldVxMem x)).toNat = 0xF065 + 0x100 * x.val ∧
    (indexAddress s + x.val ≤ 0xFFF →
      ∃ t, exec (.ldVxMem x) s = .next t ∧
        (∀ k : Reg, k.val ≤ x.val → t.reg k = s.byteAt (indexAddress s + k.val)) ∧
        (∀ k : Reg, x.val < k.val → t.reg k = s.reg k) ∧ t.pc = s.pc + 2 ∧ KeepsAllButRegs s t) ∧
    (0xFFF < indexAddress s + x.val →
      ∃ t, exec (.ldVxMem x) s = .next t ∧ HaltsUnchanged .addressError (encode (.ldVxMem x)) s t)

/-- FX55, then anything that keeps I and the stored bytes, then FX65 with the same X restores V[0] to V[X] (the
source's round trip P9, `95_test_vectors.md`). -/
def Obligations.LoadRestoresStoredRegisters : Prop :=
  ∀ (s t t' : State) (x : Reg),
    indexAddress s + x.val ≤ 0xFFF → exec (.ldMemVx x) s = .next t → t'.i = t.i →
    (∀ a, indexAddress s ≤ a → a ≤ indexAddress s + x.val → t'.byteAt a = t.byteAt a) →
    ∃ u, exec (.ldVxMem x) t' = .next u ∧ ∀ k : Reg, k.val ≤ x.val → u.reg k = s.reg k

/-- A store into code is what the next fetch of those bytes returns (`20_memory.md` R53): after FX55, a fetch at a
stored pair of bytes reads the registers stored there. -/
def Obligations.StoredBytesAreFetched : Prop :=
  ∀ (s t : State) (x k l : Reg) (a : Word),
    indexAddress s + x.val ≤ 0xFFF → exec (.ldMemVx x) s = .next t →
    l.val = k.val + 1 → l.val ≤ x.val → a.toNat = indexAddress s + k.val →
    fetch { t with pc := a } = .ok (wordOfBytes (s.reg k) (s.reg l))

/-! ### Display -/

/-- 00E0: every pixel 0, and the frame. -/
def Obligations.ClearScreenClearsEveryPixel : Prop :=
  ∀ s : State,
    (encode .cls).toNat = 0x00E0 ∧
      ∃ t, exec .cls s = .next t ∧ (∀ x y, pixel t.fb x y = false) ∧ t.pc = s.pc + 2 ∧ KeepsRegsBut [] s t ∧
        KeepsIndex s t ∧ KeepsStack s t ∧ KeepsTimers s t ∧ KeepsMemory s t ∧ KeepsControl s t

/-- DXYN: exactly the cells under a set sprite bit are complemented, each pixel wrapped on its own, V[0xF] is 1
exactly when one of them was set, and the frame; N = 0 draws nothing and cannot fault (the spec's decision D18);
when the sprite leaves memory nothing is drawn and the core halts (its decisions D2 and D3). -/
def Obligations.DrawComplementsCoveredPixels : Prop :=
  ∀ (s : State) (x y : Reg) (n : BitVec 4),
    (encode (.drw x y n)).toNat = 0xD000 + 0x100 * x.val + 0x10 * y.val + n.toNat ∧
    (n.toNat = 0 ∨ indexAddress s + n.toNat - 1 ≤ 0xFFF →
      ∃ t, exec (.drw x y n) s = .next t ∧
        (∀ px py, SpriteCovers s (s.reg x).toNat (s.reg y).toNat n.toNat px py →
          pixel t.fb px py = !pixel s.fb px py) ∧
        (∀ px py, ¬SpriteCovers s (s.reg x).toNat (s.reg y).toNat n.toNat px py →
          pixel t.fb px py = pixel s.fb px py) ∧
        (t.reg 0xF = 0x00 ∨ t.reg 0xF = 0x01) ∧
        (t.reg 0xF = 0x01 ↔ ∃ px py, SpriteCovers s (s.reg x).toNat (s.reg y).toNat n.toNat px py ∧
          pixel s.fb px py = true) ∧
        t.pc = s.pc + 2 ∧ KeepsRegsBut [0xF] s t ∧ KeepsIndex s t ∧ KeepsStack s t ∧ KeepsTimers s t ∧
        KeepsMemory s t ∧ KeepsControl s t) ∧
    (0 < n.toNat → 0xFFF < indexAddress s + n.toNat - 1 →
      ∃ t, exec (.drw x y n) s = .next t ∧ HaltsUnchanged .addressError (encode (.drw x y n)) s t)

/-- Drawing the same sprite twice at the same place restores the framebuffer (`44_display.md` R142), X and Y not
being the flag register. -/
def Obligations.DrawingTwiceRestoresScreen : Prop :=
  ∀ (s t : State) (x y : Reg) (n : BitVec 4),
    x ≠ 0xF → y ≠ 0xF → n.toNat = 0 ∨ indexAddress s + n.toNat - 1 ≤ 0xFFF →
    exec (.drw x y n) s = .next t →
    ∃ u, exec (.drw x y n) t = .next u ∧ KeepsScreen s u

/-! ### Keypad and timers -/

/-- EX9E and EXA1: PC + 4 when the key V[X] mod 16 is, or is not, down in the Step's snapshot, else PC + 2; nothing
else changes. -/
def Obligations.KeySkipsTestTheSnapshot : Prop :=
  ∀ (s : State) (x : Reg),
    ((encode (.skp x)).toNat = 0xE09E + 0x100 * x.val ∧
      ∃ t, exec (.skp x) s = .next t ∧
        t.pc = (if s.env.keys.getLsbD ((s.reg x).toNat % 16) = true then s.pc + 4 else s.pc + 2) ∧
        OnlyPcChanges s t) ∧
    ((encode (.sknp x)).toNat = 0xE0A1 + 0x100 * x.val ∧
      ∃ t, exec (.sknp x) s = .next t ∧
        t.pc = (if s.env.keys.getLsbD ((s.reg x).toNat % 16) = false then s.pc + 4 else s.pc + 2) ∧
        OnlyPcChanges s t)

/-- FX0A: X and the snapshot are latched and RUN becomes AwaitingKey; PC is PC + 2 and V[X] is not written yet (the
latches are the spec's decision D11). -/
def Obligations.KeyWaitLatchesAndSuspends : Prop :=
  ∀ (s : State) (x : Reg),
    (encode (.ldVxK x)).toNat = 0xF00A + 0x100 * x.val ∧
      ∃ t, exec (.ldVxK x) s = .next t ∧ t.run = .awaitingKey ∧ t.waitX = x ∧ t.keyPrev = s.env.keys ∧
        t.pc = s.pc + 2 ∧ KeepsRegsBut [] s t ∧ KeepsIndex s t ∧ KeepsStack s t ∧ KeepsTimers s t ∧
        KeepsScreen s t ∧ KeepsMemory s t ∧ KeepsRecords s t ∧ KeepsSetup s t

/-- FX07, FX15 and FX18: DT to V[X], V[X] to DT, V[X] to ST with `tone` following at once, and the frames. -/
def Obligations.TimerAccess : Prop :=
  ∀ (s : State) (x : Reg),
    ((encode (.ldVxDt x)).toNat = 0xF007 + 0x100 * x.val ∧
      ∃ t, exec (.ldVxDt x) s = .next t ∧ t.reg x = s.dt ∧ OnlyRegsChange [x] s t) ∧
    ((encode (.ldDtVx x)).toNat = 0xF015 + 0x100 * x.val ∧
      ∃ t, exec (.ldDtVx x) s = .next t ∧ t.dt = s.reg x ∧ t.st = s.st ∧ t.pc = s.pc + 2 ∧ KeepsRegsBut [] s t ∧
        KeepsIndex s t ∧ KeepsStack s t ∧ KeepsScreen s t ∧ KeepsMemory s t ∧ KeepsControl s t) ∧
    ((encode (.ldStVx x)).toNat = 0xF018 + 0x100 * x.val ∧
      ∃ t, exec (.ldStVx x) s = .next t ∧ t.st = s.reg x ∧ (tone t = true ↔ 0 < (s.reg x).toNat) ∧ t.dt = s.dt ∧
        t.pc = s.pc + 2 ∧ KeepsRegsBut [] s t ∧ KeepsIndex s t ∧ KeepsStack s t ∧ KeepsScreen s t ∧
        KeepsMemory s t ∧ KeepsControl s t)

/-- Tick takes 1 from each timer that is not 0 and changes nothing else, in every run state (the spec's decision
D13); after N Ticks a timer is max(0, initial − N). -/
def Obligations.TicksCountDownToZero : Prop :=
  ∀ (s : State) (n : Nat),
    (∃ t, applyEvent .tick s = .next t ∧ t.dt.toNat = s.dt.toNat - 1 ∧ t.st.toNat = s.st.toNat - 1 ∧
      t = { s with dt := t.dt, st := t.st }) ∧
    (tick^[n] s).dt.toNat = s.dt.toNat - n ∧ (tick^[n] s).st.toNat = s.st.toNat - n

/-- KeySample: nothing when the core is not waiting; while it waits, with no key newly down only KEY_PREV follows;
else the least newly pressed key goes to V[WAIT_X] and the core runs again (the spec's decision D11). -/
def Obligations.KeySampleEndsTheWait : Prop :=
  ∀ (s : State) (keys : Word),
    (s.run ≠ .awaitingKey → applyEvent (.keySample keys) s = .next s) ∧
    (s.run = .awaitingKey → keys &&& ~~~s.keyPrev = 0 →
      applyEvent (.keySample keys) s = .next { s with keyPrev := keys }) ∧
    (s.run = .awaitingKey → keys &&& ~~~s.keyPrev ≠ 0 →
      ∃ t k, applyEvent (.keySample keys) s = .next t ∧ k < 16 ∧ keys.getLsbD k = true ∧
        s.keyPrev.getLsbD k = false ∧ (∀ j, j < k → keys.getLsbD j = true → s.keyPrev.getLsbD j = true) ∧
        (t.reg s.waitX).toNat = k ∧ KeepsRegsBut [s.waitX] s t ∧
        t = { s with v := t.v, run := .running, keyPrev := keys })

/-- The outputs: `tone` is 1 exactly while ST > 0 (`60_exceptions.md` R186), `run_state` is 0, 1 or 2 as RUN is
Running, AwaitingKey or Halted (`10_state.md` R26), and `fb_update` pulses exactly when the Step from this state
executes a DXYN that does not fault (`44_display.md` R143; that 00E0 does not pulse is the spec's decision D26; that
outputs are functions and not state is the model's choice, log 14). -/
def Obligations.OutputsFollowTheState : Prop :=
  ∀ s : State,
    (tone s = true ↔ 0 < s.st.toNat) ∧
    (runStateOut s = 0 ↔ s.run = .running) ∧ (runStateOut s = 1 ↔ s.run = .awaitingKey) ∧
    (runStateOut s = 2 ↔ s.run = .halted) ∧ runStateOut s ≠ 3 ∧
    (fbUpdate s = true ↔ s.run = .running ∧ s.pc.toNat ≤ 0xFFE ∧
      ∃ x y n t, decode (wordOfBytes (s.byteAt s.pc.toNat) (s.byteAt (s.pc.toNat + 1))) = some (.drw x y n) ∧
        exec (.drw x y n) s = .next t ∧ t.run = .running)

/-! ### Stop, Reset, Halted and the schedule -/

/-- Stop halts a core that is not halted and records no fault; a halted core does not change (the spec's decision
D24). -/
def Obligations.StopHaltsWithoutFault : Prop :=
  ∀ s : State,
    (s.run ≠ .halted → applyEvent .stop s = .next { s with run := .halted }) ∧
    (s.run = .halted → applyEvent .stop s = .next s)

/-- The state after Reset(rom, straps), from any state of an accepted configuration (`10_state.md` R34,
`70_reset_and_hazards.md` R200 to R203; the values of PC and of the control registers are the spec's decisions D1,
D4, D5, D6 and D11; that the environment stays is the model's choice, log 18). -/
def Obligations.ResetSetsEveryPiece : Prop :=
  ∀ (s : State) (rom : List Byte) (straps : Straps), s.cfg.wf = true →
    ∃ t, applyEvent (.reset rom straps) s = .next t ∧ (∀ r, t.reg r = 0x00) ∧ t.i = 0 ∧ t.pc = 0x0200 ∧
      t.sp = 0 ∧ t.stack = List.replicate s.cfg.stackDepth 0x0000 ∧ t.dt = 0 ∧ t.st = 0 ∧
      (∀ x y, pixel t.fb x y = false) ∧ t.run = .running ∧ t.fault = { code := 0, pc := 0, insn := 0 } ∧
      t.unimpl = { seen := false, pc := 0, insn := 0 } ∧ t.waitX = 0 ∧ t.keyPrev = 0 ∧ t.straps = straps ∧
      t.cfg = s.cfg ∧ t.env = s.env ∧
      (∀ k, k < rom.length → k < 3584 → t.byteAt (0x200 + k) = rom.getD k 0) ∧
      (∀ k, k < 80 → t.byteAt (s.cfg.fontBase + k) = s.cfg.font.getD k 0) ∧
      (∀ a, a < s.cfg.fontBase ∨ s.cfg.fontBase + 80 ≤ a ∧ a < 0x200 ∨ 0x200 + min rom.length 3584 ≤ a →
        t.byteAt a = 0x00) ∧
      romLoaded s.cfg rom = min rom.length 3584

/-- Halted is final: no listed event but Reset changes anything but the timers and the environment, and only Tick
changes the timers (`60_exceptions.md` R179; the spec's decision D5). -/
def Obligations.HaltedIsFinalUntilReset : Prop :=
  ∀ (s t : State) (e : HostEvent) (rest : List HostEvent),
    s.run = .halted → s.env.pending = e :: rest → (∀ rom straps, e ≠ .reset rom straps) → step s = .next t →
    t = { s with dt := t.dt, st := t.st, env := t.env } ∧ (e ≠ .tick → t.dt = s.dt ∧ t.st = s.st)

/-- A step with nothing listed is a legal run of events: some number of Ticks, one KeySample and one Step
(`40_instruction_cycle.md` R91; the form is the model's choice, log 2). -/
def Obligations.UnlistedStepIsTicksSampleAndStep : Prop :=
  ∀ s : State, s.cfg.wf = true → s.env.pending = [] →
    ∃ n keys keys' rnd,
      step s = applyEvent (.step keys' rnd)
        { keySample keys (tick^[n] s) with env := { s.env with draws := s.env.draws + 1 } }

/-- `withFetchWord` puts a word of the opcode table where the next step runs it (the model's interface to the host,
log 8). -/
def Obligations.FetchWordIsRunNext : Prop :=
  ∀ (s : State) (nbits w : Nat) (i : Instr), decodeTableWord nbits w = some i →
    step (s.withFetchWord nbits w) = exec i { s.withFetchWord nbits w with env := s.env }

/-- In the reference clocking, every TICK_DIV cycles hold exactly one Tick, in the cycle DIVCNT wraps
(`70_reset_and_hazards.md` R222, informative; log 15). -/
def Obligations.ReferenceClockTicksOncePerPeriod : Prop :=
  ∀ (c : RefClock) (keys : Nat → Word) (rnd : Nat → Byte),
    c.divCnt < c.tickDiv →
    ∀ k, k < c.tickDiv →
      (HostEvent.tick ∈ clockEvents (clockNext^[k] c) (keys k) (rnd k) ↔ k + c.divCnt + 1 = c.tickDiv)

/-- "Timers keep ticking during suspension": in a fair run whose core never runs again, DT reaches 0 (fairness is
the spec's decision D12). -/
def Obligations.FairTicksEmptyDelayTimer : Prop :=
  ∀ (sched : Nat → HostEvent) (σ : Nat → State),
    RunsUnder sched σ → Fair sched σ → (∀ n, (σ n).run ≠ .running) → ∃ m, (σ m).dt = 0
end

