-- ==== Sys2Proof/Laws/Display.lean ====
section
/-! SUPPORT. What drawing does, pixel by pixel: the cells of a sprite are distinct, so each covered pixel is
complemented once and the collision is about the framebuffer before the draw. -/

namespace Sys2Proof.Machine

theorem pixel_blankScreen (x : Fin 64) (y : Fin 32) : pixel blankScreen x y = false := by
  simp [pixel, blankScreen, Vector.get_eq_getElem]

/-- A flip, pixel by pixel. -/
theorem pixel_flipPixel (fb : Framebuffer) (x x' : Fin 64) (y y' : Fin 32) :
    pixel (flipPixel fb x y) x' y' = if x' = x ∧ y' = y then !pixel fb x y else pixel fb x' y' := by
  simp only [pixel, flipPixel, Vector.get_eq_getElem, Vector.getElem_set, Fin.ext_iff]
  by_cases hy : y.val = y'.val
  · rw [if_pos hy, Vector.getElem_set]
    have : y = y' := Fin.ext hy
    subst this
    by_cases hx : x.val = x'.val
    · rw [if_pos hx, if_pos ⟨hx.symm, rfl⟩]
    · rw [if_neg hx, if_neg (fun e => hx e.1.symm)]
  · rw [if_neg hy, if_neg (fun e => hy e.2.symm)]

/-- Whether one of some columns of a sprite byte at x0 covers the column px. -/
def coversColumn (x0 : Nat) (b : Byte) (px : Fin 64) (cols : List Nat) : Bool :=
  cols.any (fun c => b.getLsbD (7 - c) && decide (px = wrapColumn (x0 + c)))

/-- The columns of a sprite row are at most 8 cells apart, so they are distinct. -/
theorem wrapColumn_injective {x0 c d : Nat} (hc : c < 8) (hd : d < 8)
    (h : wrapColumn (x0 + c) = wrapColumn (x0 + d)) : c = d := by
  have := congrArg Fin.val h
  simp only [wrapColumn, Fin.ofNat] at this
  omega

/-- The rows of a sprite are fewer than 32, so they are distinct. -/
theorem wrapRow_injective {y0 c d : Nat} (hc : c < 32) (hd : d < 32)
    (h : wrapRow (y0 + c) = wrapRow (y0 + d)) : c = d := by
  have := congrArg Fin.val h
  simp only [wrapRow, Fin.ofNat] at this
  omega

/-- What some columns of a row do to a pixel. -/
theorem pixel_drawColumns (x0 : Nat) (y : Fin 32) (b : Byte) (cols : List Nat) (d : Drawing)
    (hn : cols.Nodup) (hc : ∀ c ∈ cols, c < 8) (px : Fin 64) (py : Fin 32) :
    pixel (cols.foldl (drawColumn x0 y b) d).fb px py =
      (pixel d.fb px py ^^ (decide (py = y) && coversColumn x0 b px cols)) := by
  induction cols generalizing d with
  | nil => simp [coversColumn]
  | cons c cols ih =>
    have hn' := List.nodup_cons.1 hn
    rw [List.foldl_cons, ih _ hn'.2 (fun e he => hc e (List.mem_cons_of_mem _ he))]
    have hne : px = wrapColumn (x0 + c) → coversColumn x0 b px cols = false := by
      rintro rfl
      simp only [coversColumn, List.any_eq_false, Bool.and_eq_true, decide_eq_true_eq, not_and]
      intro e he _ h
      have := wrapColumn_injective (hc c List.mem_cons_self) (hc e (List.mem_cons_of_mem _ he)) h
      exact hn'.1 (this ▸ he)
    have hcons : coversColumn x0 b px (c :: cols) =
        ((b.getLsbD (7 - c) && decide (px = wrapColumn (x0 + c))) || coversColumn x0 b px cols) := rfl
    rw [hcons]
    unfold drawColumn
    by_cases hb : b.getLsbD (7 - c) = true
    · rw [if_pos hb, hb, plot, pixel_flipPixel]
      by_cases hx : px = wrapColumn (x0 + c)
      · rw [hne hx]
        by_cases hy : py = y
        · subst hx hy; simp
        · simp [hy]
      · simp [hx]
    · rw [if_neg hb, Bool.not_eq_true _ |>.mp hb]; simp

/-- What some columns of a row do to the collision. -/
theorem collision_drawColumns (x0 : Nat) (y : Fin 32) (b : Byte) (cols : List Nat) (d : Drawing)
    (hn : cols.Nodup) (hc : ∀ c ∈ cols, c < 8) :
    (cols.foldl (drawColumn x0 y b) d).collision = true ↔
      d.collision = true ∨ ∃ px, coversColumn x0 b px cols = true ∧ pixel d.fb px y = true := by
  induction cols generalizing d with
  | nil => simp [coversColumn]
  | cons c cols ih =>
    have hn' := List.nodup_cons.1 hn
    rw [List.foldl_cons, ih _ hn'.2 (fun e he => hc e (List.mem_cons_of_mem _ he))]
    have hne : coversColumn x0 b (wrapColumn (x0 + c)) cols = false := by
      simp only [coversColumn, List.any_eq_false, Bool.and_eq_true, decide_eq_true_eq, not_and]
      intro e he _ h
      have := wrapColumn_injective (hc c List.mem_cons_self) (hc e (List.mem_cons_of_mem _ he)) h
      exact hn'.1 (this ▸ he)
    have hcons : ∀ px, coversColumn x0 b px (c :: cols) =
        ((b.getLsbD (7 - c) && decide (px = wrapColumn (x0 + c))) || coversColumn x0 b px cols) := fun _ => rfl
    unfold drawColumn
    by_cases hb : b.getLsbD (7 - c) = true
    · rw [if_pos hb]
      simp only [hcons, hb, plot, pixel_flipPixel, Bool.true_and, Bool.or_eq_true, decide_eq_true_eq, and_true]
      constructor
      · rintro ((h | h) | ⟨px, h1, h2⟩)
        · exact .inl h
        · exact .inr ⟨_, .inl rfl, h⟩
        · refine .inr ⟨px, .inr h1, ?_⟩
          by_cases hx : px = wrapColumn (x0 + c)
          · subst hx; rw [hne] at h1; cases h1
          · rwa [if_neg hx] at h2
      · rintro (h | ⟨px, rfl | h1, h2⟩)
        · exact .inl (.inl h)
        · exact .inl (.inr h2)
        · refine .inr ⟨px, h1, ?_⟩
          by_cases hx : px = wrapColumn (x0 + c)
          · subst hx; rw [hne] at h1; cases h1
          · rwa [if_neg hx]
    · rw [if_neg hb]
      simp only [hcons, Bool.not_eq_true _ |>.mp hb, Bool.false_and, Bool.false_or]

/-- Whether a sprite byte at x0 covers the column px. -/
def coversRow (x0 : Nat) (b : Byte) (px : Fin 64) : Bool := coversColumn x0 b px [0, 1, 2, 3, 4, 5, 6, 7]

theorem coversRow_iff (x0 : Nat) (b : Byte) (px : Fin 64) :
    coversRow x0 b px = true ↔
      ∃ c, c < 8 ∧ b.getLsbD (7 - c) = true ∧ px.val = (x0 + c) % 64 := by
  have hm : ∀ c, c ∈ [0, 1, 2, 3, 4, 5, 6, 7] ↔ c < 8 := by
    intro c; simp only [List.mem_cons, List.not_mem_nil, or_false]; omega
  have hw : ∀ c, px = wrapColumn (x0 + c) ↔ px.val = (x0 + c) % 64 := fun c => Fin.ext_iff
  simp only [coversRow, coversColumn, List.any_eq_true, Bool.and_eq_true, decide_eq_true_eq, hm, hw]

/-- What one row does to a pixel. -/
theorem pixel_drawRow (x0 : Nat) (y : Fin 32) (b : Byte) (d : Drawing) (px : Fin 64) (py : Fin 32) :
    pixel (drawRow x0 y b d).fb px py = (pixel d.fb px py ^^ (decide (py = y) && coversRow x0 b px)) :=
  pixel_drawColumns x0 y b _ d (by decide) (by decide) px py

/-- What one row does to the collision. -/
theorem collision_drawRow (x0 : Nat) (y : Fin 32) (b : Byte) (d : Drawing) :
    (drawRow x0 y b d).collision = true ↔
      d.collision = true ∨ ∃ px, coversRow x0 b px = true ∧ pixel d.fb px y = true :=
  collision_drawColumns x0 y b _ d (by decide) (by decide)

/-- Whether a row of a sprite at (x0, y0) covers the cell (px, py). -/
def CoversCell (x0 y0 : Nat) (rows : List Byte) (px : Fin 64) (py : Fin 32) : Prop :=
  ∃ k, k < rows.length ∧ py = wrapRow (y0 + k) ∧ coversRow x0 (rows.getD k 0) px = true

theorem coversCell_cons (x0 y0 : Nat) (b : Byte) (rows : List Byte) (px : Fin 64) (py : Fin 32) :
    CoversCell x0 y0 (b :: rows) px py ↔
      (py = wrapRow y0 ∧ coversRow x0 b px = true) ∨ CoversCell x0 (y0 + 1) rows px py := by
  constructor
  · rintro ⟨k, hk, hy, hc⟩
    cases k with
    | zero => exact .inl ⟨hy, hc⟩
    | succ k =>
      refine .inr ⟨k, ?_, by rw [hy]; congr 1; omega, hc⟩
      have : (b :: rows).length = rows.length + 1 := rfl
      omega
  · rintro (⟨hy, hc⟩ | ⟨k, hk, hy, hc⟩)
    · exact ⟨0, Nat.succ_pos _, hy, hc⟩
    · refine ⟨k + 1, ?_, by rw [hy]; congr 1; omega, hc⟩
      have : (b :: rows).length = rows.length + 1 := rfl
      omega

/-- The rows below the first do not reach the first row's cells. -/
theorem not_coversCell_above (x0 y0 : Nat) (rows : List Byte) (px : Fin 64) (h : rows.length < 32) :
    ¬CoversCell x0 (y0 + 1) rows px (wrapRow y0) := by
  rintro ⟨k, hk, hy, -⟩
  have := wrapRow_injective (y0 := y0) (c := 0) (d := k + 1) (by omega) (by omega) (by
    rw [Nat.add_zero, hy]; congr 1; omega)
  omega

/-- Drawing complements the covered pixels and no other. -/
theorem pixel_drawSprite (x0 : Nat) (rows : List Byte) (y0 : Nat) (d : Drawing) (px : Fin 64) (py : Fin 32)
    (h : rows.length ≤ 32) :
    (CoversCell x0 y0 rows px py → pixel (drawSprite x0 y0 d rows).fb px py = !pixel d.fb px py) ∧
      (¬CoversCell x0 y0 rows px py → pixel (drawSprite x0 y0 d rows).fb px py = pixel d.fb px py) := by
  induction rows generalizing y0 d with
  | nil => exact ⟨fun ⟨k, hk, _⟩ => absurd hk (Nat.not_lt_zero k), fun _ => rfl⟩
  | cons b rows ih =>
    have hl : (b :: rows).length = rows.length + 1 := rfl
    obtain ⟨ih1, ih2⟩ := ih (y0 + 1) (drawRow x0 (wrapRow y0) b d) (by omega)
    rw [pixel_drawRow] at ih1 ih2
    have hs : drawSprite x0 y0 d (b :: rows) = drawSprite x0 (y0 + 1) (drawRow x0 (wrapRow y0) b d) rows := rfl
    rw [coversCell_cons, hs]
    by_cases hy : py = wrapRow y0
    · subst hy
      have hn := not_coversCell_above x0 y0 rows px (by omega)
      rw [ih2 hn]
      simp only [hn, or_false, true_and, decide_true, Bool.true_and]
      cases coversRow x0 b px <;> simp
    · simp only [hy, false_and, false_or, decide_false, Bool.false_and, Bool.xor_false] at ih1 ih2 ⊢
      exact ⟨ih1, ih2⟩

/-- The collision says whether a covered pixel was set before the draw. -/
theorem collision_drawSprite (x0 : Nat) (rows : List Byte) (y0 : Nat) (d : Drawing) (h : rows.length ≤ 32) :
    (drawSprite x0 y0 d rows).collision = true ↔
      d.collision = true ∨ ∃ px py, CoversCell x0 y0 rows px py ∧ pixel d.fb px py = true := by
  induction rows generalizing y0 d with
  | nil => exact ⟨.inl, fun e => e.resolve_right (fun ⟨_, _, ⟨k, hk, _⟩, _⟩ => Nat.not_lt_zero k hk)⟩
  | cons b rows ih =>
    have hl : (b :: rows).length = rows.length + 1 := rfl
    have hs : drawSprite x0 y0 d (b :: rows) = drawSprite x0 (y0 + 1) (drawRow x0 (wrapRow y0) b d) rows := rfl
    rw [hs, ih (y0 + 1) _ (by omega), collision_drawRow]
    have hp : ∀ px py, CoversCell x0 (y0 + 1) rows px py →
        pixel (drawRow x0 (wrapRow y0) b d).fb px py = pixel d.fb px py := by
      intro px py hc
      rw [pixel_drawRow]
      by_cases hy : py = wrapRow y0
      · subst hy; exact absurd hc (not_coversCell_above x0 y0 rows px (by omega))
      · simp [hy]
    constructor
    · rintro ((h1 | ⟨px, h1, h2⟩) | ⟨px, py, h1, h2⟩)
      · exact .inl h1
      · exact .inr ⟨px, _, (coversCell_cons ..).2 (.inl ⟨rfl, h1⟩), h2⟩
      · exact .inr ⟨px, py, (coversCell_cons ..).2 (.inr h1), by rwa [hp px py h1] at h2⟩
    · rintro (h1 | ⟨px, py, h1, h2⟩)
      · exact .inl (.inl h1)
      · rcases (coversCell_cons ..).1 h1 with ⟨rfl, h3⟩ | h3
        · exact .inl (.inr ⟨px, h3, h2⟩)
        · exact .inr ⟨px, py, h3, by rwa [hp px py h3]⟩

end Sys2Proof.Machine
end

