-- ==== Sys2Proof/Laws/Encoding.lean ====
section
/-! SUPPORT. The fields of a word as numbers, the fields of the formats, and the words of the formats as
numbers (`30_encoding.md` R61, R62). -/

namespace Sys2Proof

/-! ### Fields as numbers -/

theorem fieldG_toNat (w : Word) : (fieldG w).toNat = w.toNat / 0x1000 := by
  have := w.isLt
  simp only [fieldG, BitVec.extractLsb'_toNat, Nat.shiftRight_eq_div_pow]
  omega

theorem fieldX_val (w : Word) : (fieldX w).val = w.toNat / 0x100 % 0x10 := by
  simp only [fieldX, BitVec.val_toFin, BitVec.extractLsb'_toNat, Nat.shiftRight_eq_div_pow]

theorem fieldY_val (w : Word) : (fieldY w).val = w.toNat / 0x10 % 0x10 := by
  simp only [fieldY, BitVec.val_toFin, BitVec.extractLsb'_toNat, Nat.shiftRight_eq_div_pow]

theorem fieldN_toNat (w : Word) : (fieldN w).toNat = w.toNat % 0x10 := by
  simp only [fieldN, BitVec.extractLsb'_toNat, Nat.shiftRight_zero]

theorem fieldNN_toNat (w : Word) : (fieldNN w).toNat = w.toNat % 0x100 := by
  simp only [fieldNN, BitVec.extractLsb'_toNat, Nat.shiftRight_zero]

theorem fieldNNN_toNat (w : Word) : (fieldNNN w).toNat = w.toNat % 0x1000 := by
  simp only [fieldNNN, BitVec.extractLsb'_toNat, Nat.shiftRight_zero]

/-! ### The words of the formats as numbers -/

theorem toNat_append_eq {m n : Nat} (a : BitVec m) (b : BitVec n) :
    (a ++ b).toNat = a.toNat * 2 ^ n + b.toNat := by
  rw [BitVec.toNat_append, Nat.shiftLeft_eq, Nat.mul_comm, Nat.two_pow_add_eq_or_of_lt b.isLt]

theorem formatA_toNat (g : BitVec 4) (nnn : BitVec 12) :
    (formatA g nnn).toNat = 0x1000 * g.toNat + nnn.toNat := by
  have : (formatA g nnn).toNat = g.toNat * 2 ^ 12 + nnn.toNat := toNat_append_eq g nnn
  omega

theorem formatXK_toNat (g : BitVec 4) (x : Reg) (nn : Byte) :
    (formatXK g x nn).toNat = 0x1000 * g.toNat + 0x100 * x.val + nn.toNat := by
  have h1 : (formatXK g x nn).toNat = g.toNat * 2 ^ (4 + 8) + (BitVec.ofFin (w := 4) x ++ nn).toNat :=
    toNat_append_eq g _
  have h2 : (BitVec.ofFin (w := 4) x ++ nn).toNat = x.val * 2 ^ 8 + nn.toNat :=
    toNat_append_eq (BitVec.ofFin (w := 4) x) nn
  omega

theorem formatXYN_toNat (g : BitVec 4) (x y : Reg) (n : BitVec 4) :
    (formatXYN g x y n).toNat = 0x1000 * g.toNat + 0x100 * x.val + 0x10 * y.val + n.toNat := by
  have h1 : (formatXYN g x y n).toNat =
      g.toNat * 2 ^ (4 + (4 + 4)) + (BitVec.ofFin (w := 4) x ++ (BitVec.ofFin (w := 4) y ++ n)).toNat :=
    toNat_append_eq g _
  have h2 : (BitVec.ofFin (w := 4) x ++ (BitVec.ofFin (w := 4) y ++ n)).toNat =
      x.val * 2 ^ (4 + 4) + (BitVec.ofFin (w := 4) y ++ n).toNat :=
    toNat_append_eq (BitVec.ofFin (w := 4) x) _
  have h3 : (BitVec.ofFin (w := 4) y ++ n).toNat = y.val * 2 ^ 4 + n.toNat :=
    toNat_append_eq (BitVec.ofFin (w := 4) y) n
  omega

/-! ### The fields of the formats -/

@[simp] theorem fieldG_formatA (g : BitVec 4) (nnn : BitVec 12) : fieldG (formatA g nnn) = g :=
  BitVec.eq_of_toNat_eq (by rw [fieldG_toNat, formatA_toNat]; have := nnn.isLt; omega)

@[simp] theorem fieldNNN_formatA (g : BitVec 4) (nnn : BitVec 12) : fieldNNN (formatA g nnn) = nnn :=
  BitVec.eq_of_toNat_eq (by rw [fieldNNN_toNat, formatA_toNat]; have := nnn.isLt; omega)

@[simp] theorem fieldG_formatXK (g : BitVec 4) (x : Reg) (nn : Byte) : fieldG (formatXK g x nn) = g :=
  BitVec.eq_of_toNat_eq (by rw [fieldG_toNat, formatXK_toNat]; have := nn.isLt; have := x.isLt; omega)

@[simp] theorem fieldX_formatXK (g : BitVec 4) (x : Reg) (nn : Byte) : fieldX (formatXK g x nn) = x :=
  Fin.ext (by rw [fieldX_val, formatXK_toNat]; have := nn.isLt; have := x.isLt; omega)

@[simp] theorem fieldNN_formatXK (g : BitVec 4) (x : Reg) (nn : Byte) : fieldNN (formatXK g x nn) = nn :=
  BitVec.eq_of_toNat_eq (by rw [fieldNN_toNat, formatXK_toNat]; have := nn.isLt; omega)

@[simp] theorem fieldG_formatXYN (g : BitVec 4) (x y : Reg) (n : BitVec 4) : fieldG (formatXYN g x y n) = g :=
  BitVec.eq_of_toNat_eq (by
    rw [fieldG_toNat, formatXYN_toNat]; have := n.isLt; have := x.isLt; have := y.isLt; omega)

@[simp] theorem fieldX_formatXYN (g : BitVec 4) (x y : Reg) (n : BitVec 4) : fieldX (formatXYN g x y n) = x :=
  Fin.ext (by rw [fieldX_val, formatXYN_toNat]; have := n.isLt; have := x.isLt; have := y.isLt; omega)

@[simp] theorem fieldY_formatXYN (g : BitVec 4) (x y : Reg) (n : BitVec 4) : fieldY (formatXYN g x y n) = y :=
  Fin.ext (by rw [fieldY_val, formatXYN_toNat]; have := n.isLt; have := y.isLt; omega)

@[simp] theorem fieldN_formatXYN (g : BitVec 4) (x y : Reg) (n : BitVec 4) : fieldN (formatXYN g x y n) = n :=
  BitVec.eq_of_toNat_eq (by rw [fieldN_toNat, formatXYN_toNat]; have := n.isLt; omega)

/-! ### A word is its format's -/

theorem formatA_of_fields (w : Word) : formatA (fieldG w) (fieldNNN w) = w :=
  BitVec.eq_of_toNat_eq (by rw [formatA_toNat, fieldG_toNat, fieldNNN_toNat]; omega)

theorem formatXK_of_fields (w : Word) : formatXK (fieldG w) (fieldX w) (fieldNN w) = w :=
  BitVec.eq_of_toNat_eq (by rw [formatXK_toNat, fieldG_toNat, fieldX_val, fieldNN_toNat]; omega)

theorem formatXYN_of_fields (w : Word) : formatXYN (fieldG w) (fieldX w) (fieldY w) (fieldN w) = w :=
  BitVec.eq_of_toNat_eq (by
    rw [formatXYN_toNat, fieldG_toNat, fieldX_val, fieldY_val, fieldN_toNat]; omega)

/-! ### Bytes of a word -/

/-- A word's two bytes, high byte first, make the word again. -/
@[simp] theorem wordOfBytes_bytesOfWord (w : Word) :
    wordOfBytes (w.extractLsb' 8 8) (w.extractLsb' 0 8) = w := by
  have h : (wordOfBytes (w.extractLsb' 8 8) (w.extractLsb' 0 8)).toNat =
      (w.extractLsb' 8 8).toNat * 2 ^ 8 + (w.extractLsb' 0 8).toNat := toNat_append_eq _ _
  refine BitVec.eq_of_toNat_eq ?_
  have := w.isLt
  rw [h]
  simp only [BitVec.extractLsb'_toNat, Nat.shiftRight_eq_div_pow]
  omega

/-! ### Well-formedness -/

/-- The operand types leave no ill-formed instruction. -/
theorem Instr.wf_all (i : Instr) : i.wf = true := by
  have hx : ∀ x : Reg, x.inRange = true := fun x => by simp [Reg.inRange]
  have hb : ∀ b : Byte, immInRange b = true := fun b => by simp only [immInRange, decide_eq_true_eq]; exact b.isLt
  have ha : ∀ a : BitVec 12, addrInRange a = true := fun a => by
    simp only [addrInRange, decide_eq_true_eq]; exact a.isLt
  have hn : ∀ n : BitVec 4, nibbleInRange n = true := fun n => by
    simp only [nibbleInRange, decide_eq_true_eq]; exact n.isLt
  cases i <;> simp [Instr.wf, hx, hb, ha, hn]

end Sys2Proof
end

