-- ==== Sys2Proof/Laws/Memory.lean ====
section
/-! SUPPORT. The laws of MEM as data: reading after writing, blocks, and the canonical form, which every
operation keeps and in which equal memories are equal lists. -/

namespace Sys2Proof.Machine

/-! ### Reading after writing -/

theorem Memory.lookup_erase (m : Memory) (a x : Nat) :
    Memory.lookup (Memory.erase m a) x = if x = a then none else Memory.lookup m x := by
  induction m with
  | nil => simp [Memory.erase, Memory.lookup]
  | cons c m ih =>
    simp only [Memory.erase, List.filter_cons, bne_iff_ne, ne_eq] at ih ⊢
    by_cases hc : c.1 = a
    · simp only [hc, not_true_eq_false, if_false, ih, Memory.lookup]
      by_cases hx : x = a
      · simp [hx]
      · simp [hx, Ne.symm hx]
    · simp only [hc, not_false_eq_true, if_true, Memory.lookup, ih]
      by_cases hx : x = a
      · simp [hx, hc]
      · simp [hx]

theorem Memory.lookup_insert (c : Host.Cell) (m : Memory) (x : Nat) (h : Memory.lookup m c.1 = none) :
    Memory.lookup (Memory.insert c m) x = if x = c.1 then some c.2 else Memory.lookup m x := by
  induction m with
  | nil => simp [Memory.insert, Memory.lookup, eq_comm]
  | cons d m ih =>
    simp only [Memory.lookup] at h
    split at h
    · cases h
    rename_i hd
    by_cases hlt : c.1 < d.1
    · simp [Memory.insert, hlt, Memory.lookup, eq_comm]
    · simp only [Memory.insert, hlt, if_false, Memory.lookup, ih h]
      by_cases hx : x = c.1
      · simp [hx, hd]
      · simp [hx]

/-- MEM[x] after MEM[a] <- b. -/
theorem Memory.read_write (cfg : Config) (m : Memory) (a x : Nat) (b : Byte) :
    Memory.read cfg (Memory.write cfg m a b) x = if x = a then b else Memory.read cfg m x := by
  have he := Memory.lookup_erase m a
  unfold Memory.write Memory.read
  split
  · rename_i hb
    rw [he]
    by_cases hx : x = a <;> simp [hx, hb]
  · rw [Memory.lookup_insert (a, b) _ x (by simp [he]), he]
    by_cases hx : x = a <;> simp [hx]

theorem Memory.read_write_same (cfg : Config) (m : Memory) (a : Nat) (b : Byte) :
    Memory.read cfg (Memory.write cfg m a b) a = b := by
  simp [Memory.read_write]

theorem Memory.read_write_other (cfg : Config) (m : Memory) (a x : Nat) (b : Byte) (h : x ≠ a) :
    Memory.read cfg (Memory.write cfg m a b) x = Memory.read cfg m x := by
  simp [Memory.read_write, h]

/-- MEM[x] after a block of bytes was written from `a` on. -/
theorem Memory.read_writeBlock (cfg : Config) (bs : List Byte) (m : Memory) (a x : Nat) :
    Memory.read cfg (Memory.writeBlock cfg m a bs) x =
      if a ≤ x ∧ x < a + bs.length then bs.getD (x - a) 0 else Memory.read cfg m x := by
  induction bs generalizing m a with
  | nil => simp [Memory.writeBlock]
  | cons b bs ih =>
    rw [Memory.writeBlock, ih, Memory.read_write]
    simp only [List.length_cons]
    by_cases hx : x = a
    · rw [if_neg (by omega), if_pos hx, if_pos (by omega), hx, Nat.sub_self, List.getD_cons_zero]
    · by_cases h1 : a + 1 ≤ x ∧ x < a + 1 + bs.length
      · obtain ⟨j, hj⟩ : ∃ j, x - a = j + 1 := ⟨x - a - 1, by omega⟩
        rw [if_pos h1, if_pos (by omega), hj, List.getD_cons_succ]
        congr 1
        omega
      · rw [if_neg h1, if_neg hx, if_neg (by omega)]

@[simp] theorem Memory.readBlock_length (cfg : Config) (m : Memory) (a n : Nat) :
    (Memory.readBlock cfg m a n).length = n := by
  induction n generalizing a with
  | zero => rfl
  | succ n ih => simp [Memory.readBlock, ih]

/-- Byte k of a block read from `a` on is MEM[a + k]. -/
theorem Memory.readBlock_getElem? (cfg : Config) (m : Memory) (a n k : Nat) (h : k < n) :
    (Memory.readBlock cfg m a n)[k]? = some (Memory.read cfg m (a + k)) := by
  induction n generalizing a k with
  | zero => omega
  | succ n ih =>
    cases k with
    | zero => simp [Memory.readBlock]
    | succ k =>
      rw [Memory.readBlock, List.getElem?_cons_succ, ih _ _ (by omega)]
      congr 2
      omega

theorem Memory.readBlock_getD (cfg : Config) (m : Memory) (a n k : Nat) (h : k < n) :
    (Memory.readBlock cfg m a n).getD k 0 = Memory.read cfg m (a + k) := by
  simp [Memory.readBlock_getElem? cfg m a n k h]

/-! ### The canonical form -/

theorem Memory.wfFrom_mono (cfg : Config) (m : Memory) {lo lo' : Nat} (h : lo' ≤ lo)
    (hm : Memory.wfFrom cfg lo m = true) : Memory.wfFrom cfg lo' m = true := by
  cases m with
  | nil => rfl
  | cons c m =>
    simp only [Memory.wfFrom, Bool.and_eq_true, decide_eq_true_eq] at hm ⊢
    exact ⟨⟨⟨by omega, hm.1.1.2⟩, hm.1.2⟩, hm.2⟩

theorem Memory.wfFrom_erase (cfg : Config) (m : Memory) (lo a : Nat) (hm : Memory.wfFrom cfg lo m = true) :
    Memory.wfFrom cfg lo (Memory.erase m a) = true := by
  induction m generalizing lo with
  | nil => rfl
  | cons c m ih =>
    simp only [Memory.wfFrom, Bool.and_eq_true, decide_eq_true_eq] at hm
    have hrest := ih _ hm.2
    simp only [Memory.erase, List.filter_cons] at hrest ⊢
    split
    · simp only [Memory.wfFrom, Bool.and_eq_true, decide_eq_true_eq]
      exact ⟨hm.1, hrest⟩
    · exact Memory.wfFrom_mono cfg _ (by omega) hrest

theorem Memory.wfFrom_insert (cfg : Config) (m : Memory) (lo : Nat) (c : Host.Cell)
    (hlo : lo ≤ c.1) (hc : c.1 < 0x1000) (hb : c.2 ≠ Memory.base cfg c.1)
    (hm : Memory.wfFrom cfg lo m = true) (hn : Memory.lookup m c.1 = none) :
    Memory.wfFrom cfg lo (Memory.insert c m) = true := by
  induction m generalizing lo with
  | nil => simp [Memory.insert, Memory.wfFrom, hlo, hc, hb]
  | cons d m ih =>
    simp only [Memory.wfFrom, Bool.and_eq_true, decide_eq_true_eq] at hm
    simp only [Memory.lookup] at hn
    split at hn
    · cases hn
    rename_i hd
    by_cases hlt : c.1 < d.1
    · simp only [Memory.insert, hlt, if_true, Memory.wfFrom, Bool.and_eq_true, decide_eq_true_eq]
      exact ⟨⟨⟨hlo, hc⟩, hb⟩, ⟨⟨by omega, hm.1.1.2⟩, hm.1.2⟩, hm.2⟩
    · simp only [Memory.insert, hlt, if_false, Memory.wfFrom, Bool.and_eq_true, decide_eq_true_eq]
      exact ⟨hm.1, ih _ (by omega) hm.2 hn⟩

/-- A write below 0x1000 keeps the canonical form. -/
theorem Memory.wf_write (cfg : Config) (m : Memory) (a : Nat) (b : Byte) (ha : a < 0x1000)
    (hm : Memory.wf cfg m = true) : Memory.wf cfg (Memory.write cfg m a b) = true := by
  have he := Memory.wfFrom_erase cfg m 0 a hm
  unfold Memory.write
  split
  · exact he
  · exact Memory.wfFrom_insert cfg _ 0 (a, b) (Nat.zero_le _) ha ‹_› he (by simp [Memory.lookup_erase])

/-- A block write that ends below 0x1000 keeps the canonical form. -/
theorem Memory.wf_writeBlock (cfg : Config) (bs : List Byte) (m : Memory) (a : Nat)
    (ha : a + bs.length ≤ 0x1000) (hm : Memory.wf cfg m = true) :
    Memory.wf cfg (Memory.writeBlock cfg m a bs) = true := by
  induction bs generalizing m a with
  | nil => exact hm
  | cons b bs ih =>
    simp only [List.length_cons] at ha
    exact ih _ _ (by omega) (Memory.wf_write cfg m a b (by omega) hm)

/-- A load at a base address inside memory keeps the canonical form. -/
theorem Memory.wf_load (cfg : Config) (m : Memory) (bytes : List Byte) (a : Nat) (ha : a ≤ 0x1000)
    (hm : Memory.wf cfg m = true) : Memory.wf cfg (Memory.load cfg m bytes a).1 = true :=
  Memory.wf_writeBlock cfg _ m a (by rw [List.length_take]; omega) hm

/-! ### Equal memories are equal lists -/

theorem Memory.lookup_none_of_wfFrom (cfg : Config) (m : Memory) (lo a : Nat) (h : a < lo)
    (hm : Memory.wfFrom cfg lo m = true) : Memory.lookup m a = none := by
  induction m generalizing lo with
  | nil => rfl
  | cons c m ih =>
    simp only [Memory.wfFrom, Bool.and_eq_true, decide_eq_true_eq] at hm
    rw [Memory.lookup, if_neg (by omega)]
    exact ih _ (by omega) hm.2

theorem Memory.lookup_of_read_eq (cfg : Config) (m m' : Memory) (a : Nat)
    (h : ∀ x b, Memory.lookup m x = some b → b ≠ Memory.base cfg x)
    (h' : ∀ x b, Memory.lookup m' x = some b → b ≠ Memory.base cfg x)
    (hr : Memory.read cfg m a = Memory.read cfg m' a) : Memory.lookup m a = Memory.lookup m' a := by
  unfold Memory.read at hr
  cases e : Memory.lookup m a with
  | none =>
    cases e' : Memory.lookup m' a with
    | none => rfl
    | some b' => simp only [e, e', Option.getD_none, Option.getD_some] at hr; exact absurd hr.symm (h' _ _ e')
  | some b =>
    cases e' : Memory.lookup m' a with
    | none => simp only [e, e', Option.getD_none, Option.getD_some] at hr; exact absurd hr (h _ _ e)
    | some b' => simp only [e, e', Option.getD_some] at hr; rw [hr]

theorem Memory.lookup_ne_base (cfg : Config) (m : Memory) (lo : Nat) (hm : Memory.wfFrom cfg lo m = true) :
    ∀ x b, Memory.lookup m x = some b → b ≠ Memory.base cfg x := by
  induction m generalizing lo with
  | nil => intro x b h; cases h
  | cons c m ih =>
    simp only [Memory.wfFrom, Bool.and_eq_true, decide_eq_true_eq] at hm
    intro x b h
    rw [Memory.lookup] at h
    split at h
    · rename_i hc
      cases h
      rw [← hc]
      exact hm.1.2
    · exact ih _ hm.2 x b h

theorem Memory.eq_of_lookup_eq (cfg : Config) (m m' : Memory) (lo : Nat)
    (hm : Memory.wfFrom cfg lo m = true) (hm' : Memory.wfFrom cfg lo m' = true)
    (h : ∀ x, Memory.lookup m x = Memory.lookup m' x) : m = m' := by
  induction m generalizing lo m' with
  | nil =>
    cases m' with
    | nil => rfl
    | cons c m' => have := h c.1; simp [Memory.lookup] at this
  | cons c m ih =>
    cases m' with
    | nil => have := h c.1; simp [Memory.lookup] at this
    | cons c' m' =>
      simp only [Memory.wfFrom, Bool.and_eq_true, decide_eq_true_eq] at hm hm'
      have below := fun a ha => Memory.lookup_none_of_wfFrom cfg m (c.1 + 1) a ha hm.2
      have below' := fun a ha => Memory.lookup_none_of_wfFrom cfg m' (c'.1 + 1) a ha hm'.2
      have hc := h c.1
      have hc' := h c'.1
      simp only [Memory.lookup, if_true] at hc hc'
      have heq : c.1 = c'.1 := by
        by_contra hne
        rw [if_neg (Ne.symm hne)] at hc
        rw [if_neg hne] at hc'
        rcases Nat.lt_or_gt_of_ne hne with hlt | hgt
        · rw [below' _ (by omega)] at hc; cases hc
        · rw [below _ (by omega)] at hc'; cases hc'
      rw [if_pos heq.symm] at hc
      have h2 : c = c' := Prod.ext heq (Option.some.inj hc)
      subst h2
      congr 1
      refine ih m' (c.1 + 1) hm.2 hm'.2 (fun x => ?_)
      by_cases hx : c.1 = x
      · rw [below x (by omega), below' x (by omega)]
      · have := h x
        simpa [Memory.lookup, hx] using this

/-- In canonical form, memories that read the same at every address are the same list. -/
theorem Memory.ext_of_wf (cfg : Config) (m m' : Memory) (hm : Memory.wf cfg m = true)
    (hm' : Memory.wf cfg m' = true) (h : ∀ a, Memory.read cfg m a = Memory.read cfg m' a) : m = m' :=
  Memory.eq_of_lookup_eq cfg m m' 0 hm hm' (fun x =>
    Memory.lookup_of_read_eq cfg m m' x (Memory.lookup_ne_base cfg m 0 hm) (Memory.lookup_ne_base cfg m' 0 hm') (h x))

end Sys2Proof.Machine
end

