-- ==== Sys2Proof/Laws/State.lean ====
section
/-! SUPPORT. One lemma per field per update of the state, true by rfl, and what each update does to the two
readers `State.reg` and `State.byteAt`. -/

namespace Sys2Proof.Machine

/-! ### `State.setReg` -/

@[simp] theorem State.setReg_v (s : State) (x : Reg) (b : Byte) : (s.setReg x b).v = s.v.set x b := rfl
@[simp] theorem State.setReg_i (s : State) (x : Reg) (b : Byte) : (s.setReg x b).i = s.i := rfl
@[simp] theorem State.setReg_pc (s : State) (x : Reg) (b : Byte) : (s.setReg x b).pc = s.pc := rfl
@[simp] theorem State.setReg_stack (s : State) (x : Reg) (b : Byte) : (s.setReg x b).stack = s.stack := rfl
@[simp] theorem State.setReg_sp (s : State) (x : Reg) (b : Byte) : (s.setReg x b).sp = s.sp := rfl
@[simp] theorem State.setReg_dt (s : State) (x : Reg) (b : Byte) : (s.setReg x b).dt = s.dt := rfl
@[simp] theorem State.setReg_st (s : State) (x : Reg) (b : Byte) : (s.setReg x b).st = s.st := rfl
@[simp] theorem State.setReg_fb (s : State) (x : Reg) (b : Byte) : (s.setReg x b).fb = s.fb := rfl
@[simp] theorem State.setReg_mem (s : State) (x : Reg) (b : Byte) : (s.setReg x b).mem = s.mem := rfl
@[simp] theorem State.setReg_run (s : State) (x : Reg) (b : Byte) : (s.setReg x b).run = s.run := rfl
@[simp] theorem State.setReg_fault (s : State) (x : Reg) (b : Byte) : (s.setReg x b).fault = s.fault := rfl
@[simp] theorem State.setReg_unimpl (s : State) (x : Reg) (b : Byte) : (s.setReg x b).unimpl = s.unimpl := rfl
@[simp] theorem State.setReg_waitX (s : State) (x : Reg) (b : Byte) : (s.setReg x b).waitX = s.waitX := rfl
@[simp] theorem State.setReg_keyPrev (s : State) (x : Reg) (b : Byte) : (s.setReg x b).keyPrev = s.keyPrev := rfl
@[simp] theorem State.setReg_straps (s : State) (x : Reg) (b : Byte) : (s.setReg x b).straps = s.straps := rfl
@[simp] theorem State.setReg_cfg (s : State) (x : Reg) (b : Byte) : (s.setReg x b).cfg = s.cfg := rfl
@[simp] theorem State.setReg_env (s : State) (x : Reg) (b : Byte) : (s.setReg x b).env = s.env := rfl
@[simp] theorem State.setReg_byteAt (s : State) (x : Reg) (b : Byte) (a : Nat) : (s.setReg x b).byteAt a = s.byteAt a := rfl

/-! ### `State.setI` -/

@[simp] theorem State.setI_v (s : State) (w : Word) : (s.setI w).v = s.v := rfl
@[simp] theorem State.setI_i (s : State) (w : Word) : (s.setI w).i = w := rfl
@[simp] theorem State.setI_pc (s : State) (w : Word) : (s.setI w).pc = s.pc := rfl
@[simp] theorem State.setI_stack (s : State) (w : Word) : (s.setI w).stack = s.stack := rfl
@[simp] theorem State.setI_sp (s : State) (w : Word) : (s.setI w).sp = s.sp := rfl
@[simp] theorem State.setI_dt (s : State) (w : Word) : (s.setI w).dt = s.dt := rfl
@[simp] theorem State.setI_st (s : State) (w : Word) : (s.setI w).st = s.st := rfl
@[simp] theorem State.setI_fb (s : State) (w : Word) : (s.setI w).fb = s.fb := rfl
@[simp] theorem State.setI_mem (s : State) (w : Word) : (s.setI w).mem = s.mem := rfl
@[simp] theorem State.setI_run (s : State) (w : Word) : (s.setI w).run = s.run := rfl
@[simp] theorem State.setI_fault (s : State) (w : Word) : (s.setI w).fault = s.fault := rfl
@[simp] theorem State.setI_unimpl (s : State) (w : Word) : (s.setI w).unimpl = s.unimpl := rfl
@[simp] theorem State.setI_waitX (s : State) (w : Word) : (s.setI w).waitX = s.waitX := rfl
@[simp] theorem State.setI_keyPrev (s : State) (w : Word) : (s.setI w).keyPrev = s.keyPrev := rfl
@[simp] theorem State.setI_straps (s : State) (w : Word) : (s.setI w).straps = s.straps := rfl
@[simp] theorem State.setI_cfg (s : State) (w : Word) : (s.setI w).cfg = s.cfg := rfl
@[simp] theorem State.setI_env (s : State) (w : Word) : (s.setI w).env = s.env := rfl
@[simp] theorem State.setI_reg (s : State) (w : Word) (r : Reg) : (s.setI w).reg r = s.reg r := rfl
@[simp] theorem State.setI_byteAt (s : State) (w : Word) (a : Nat) : (s.setI w).byteAt a = s.byteAt a := rfl

/-! ### `State.setPc` -/

@[simp] theorem State.setPc_v (s : State) (w : Word) : (s.setPc w).v = s.v := rfl
@[simp] theorem State.setPc_i (s : State) (w : Word) : (s.setPc w).i = s.i := rfl
@[simp] theorem State.setPc_pc (s : State) (w : Word) : (s.setPc w).pc = w := rfl
@[simp] theorem State.setPc_stack (s : State) (w : Word) : (s.setPc w).stack = s.stack := rfl
@[simp] theorem State.setPc_sp (s : State) (w : Word) : (s.setPc w).sp = s.sp := rfl
@[simp] theorem State.setPc_dt (s : State) (w : Word) : (s.setPc w).dt = s.dt := rfl
@[simp] theorem State.setPc_st (s : State) (w : Word) : (s.setPc w).st = s.st := rfl
@[simp] theorem State.setPc_fb (s : State) (w : Word) : (s.setPc w).fb = s.fb := rfl
@[simp] theorem State.setPc_mem (s : State) (w : Word) : (s.setPc w).mem = s.mem := rfl
@[simp] theorem State.setPc_run (s : State) (w : Word) : (s.setPc w).run = s.run := rfl
@[simp] theorem State.setPc_fault (s : State) (w : Word) : (s.setPc w).fault = s.fault := rfl
@[simp] theorem State.setPc_unimpl (s : State) (w : Word) : (s.setPc w).unimpl = s.unimpl := rfl
@[simp] theorem State.setPc_waitX (s : State) (w : Word) : (s.setPc w).waitX = s.waitX := rfl
@[simp] theorem State.setPc_keyPrev (s : State) (w : Word) : (s.setPc w).keyPrev = s.keyPrev := rfl
@[simp] theorem State.setPc_straps (s : State) (w : Word) : (s.setPc w).straps = s.straps := rfl
@[simp] theorem State.setPc_cfg (s : State) (w : Word) : (s.setPc w).cfg = s.cfg := rfl
@[simp] theorem State.setPc_env (s : State) (w : Word) : (s.setPc w).env = s.env := rfl
@[simp] theorem State.setPc_reg (s : State) (w : Word) (r : Reg) : (s.setPc w).reg r = s.reg r := rfl
@[simp] theorem State.setPc_byteAt (s : State) (w : Word) (a : Nat) : (s.setPc w).byteAt a = s.byteAt a := rfl

/-! ### `State.setStack` -/

@[simp] theorem State.setStack_v (s : State) (l : List Word) (n : Nat) : (s.setStack l n).v = s.v := rfl
@[simp] theorem State.setStack_i (s : State) (l : List Word) (n : Nat) : (s.setStack l n).i = s.i := rfl
@[simp] theorem State.setStack_pc (s : State) (l : List Word) (n : Nat) : (s.setStack l n).pc = s.pc := rfl
@[simp] theorem State.setStack_stack (s : State) (l : List Word) (n : Nat) : (s.setStack l n).stack = l := rfl
@[simp] theorem State.setStack_sp (s : State) (l : List Word) (n : Nat) : (s.setStack l n).sp = n := rfl
@[simp] theorem State.setStack_dt (s : State) (l : List Word) (n : Nat) : (s.setStack l n).dt = s.dt := rfl
@[simp] theorem State.setStack_st (s : State) (l : List Word) (n : Nat) : (s.setStack l n).st = s.st := rfl
@[simp] theorem State.setStack_fb (s : State) (l : List Word) (n : Nat) : (s.setStack l n).fb = s.fb := rfl
@[simp] theorem State.setStack_mem (s : State) (l : List Word) (n : Nat) : (s.setStack l n).mem = s.mem := rfl
@[simp] theorem State.setStack_run (s : State) (l : List Word) (n : Nat) : (s.setStack l n).run = s.run := rfl
@[simp] theorem State.setStack_fault (s : State) (l : List Word) (n : Nat) : (s.setStack l n).fault = s.fault := rfl
@[simp] theorem State.setStack_unimpl (s : State) (l : List Word) (n : Nat) : (s.setStack l n).unimpl = s.unimpl := rfl
@[simp] theorem State.setStack_waitX (s : State) (l : List Word) (n : Nat) : (s.setStack l n).waitX = s.waitX := rfl
@[simp] theorem State.setStack_keyPrev (s : State) (l : List Word) (n : Nat) : (s.setStack l n).keyPrev = s.keyPrev := rfl
@[simp] theorem State.setStack_straps (s : State) (l : List Word) (n : Nat) : (s.setStack l n).straps = s.straps := rfl
@[simp] theorem State.setStack_cfg (s : State) (l : List Word) (n : Nat) : (s.setStack l n).cfg = s.cfg := rfl
@[simp] theorem State.setStack_env (s : State) (l : List Word) (n : Nat) : (s.setStack l n).env = s.env := rfl
@[simp] theorem State.setStack_reg (s : State) (l : List Word) (n : Nat) (r : Reg) : (s.setStack l n).reg r = s.reg r := rfl
@[simp] theorem State.setStack_byteAt (s : State) (l : List Word) (n : Nat) (a : Nat) : (s.setStack l n).byteAt a = s.byteAt a := rfl

/-! ### `State.setDt` -/

@[simp] theorem State.setDt_v (s : State) (b : Byte) : (s.setDt b).v = s.v := rfl
@[simp] theorem State.setDt_i (s : State) (b : Byte) : (s.setDt b).i = s.i := rfl
@[simp] theorem State.setDt_pc (s : State) (b : Byte) : (s.setDt b).pc = s.pc := rfl
@[simp] theorem State.setDt_stack (s : State) (b : Byte) : (s.setDt b).stack = s.stack := rfl
@[simp] theorem State.setDt_sp (s : State) (b : Byte) : (s.setDt b).sp = s.sp := rfl
@[simp] theorem State.setDt_dt (s : State) (b : Byte) : (s.setDt b).dt = b := rfl
@[simp] theorem State.setDt_st (s : State) (b : Byte) : (s.setDt b).st = s.st := rfl
@[simp] theorem State.setDt_fb (s : State) (b : Byte) : (s.setDt b).fb = s.fb := rfl
@[simp] theorem State.setDt_mem (s : State) (b : Byte) : (s.setDt b).mem = s.mem := rfl
@[simp] theorem State.setDt_run (s : State) (b : Byte) : (s.setDt b).run = s.run := rfl
@[simp] theorem State.setDt_fault (s : State) (b : Byte) : (s.setDt b).fault = s.fault := rfl
@[simp] theorem State.setDt_unimpl (s : State) (b : Byte) : (s.setDt b).unimpl = s.unimpl := rfl
@[simp] theorem State.setDt_waitX (s : State) (b : Byte) : (s.setDt b).waitX = s.waitX := rfl
@[simp] theorem State.setDt_keyPrev (s : State) (b : Byte) : (s.setDt b).keyPrev = s.keyPrev := rfl
@[simp] theorem State.setDt_straps (s : State) (b : Byte) : (s.setDt b).straps = s.straps := rfl
@[simp] theorem State.setDt_cfg (s : State) (b : Byte) : (s.setDt b).cfg = s.cfg := rfl
@[simp] theorem State.setDt_env (s : State) (b : Byte) : (s.setDt b).env = s.env := rfl
@[simp] theorem State.setDt_reg (s : State) (b : Byte) (r : Reg) : (s.setDt b).reg r = s.reg r := rfl
@[simp] theorem State.setDt_byteAt (s : State) (b : Byte) (a : Nat) : (s.setDt b).byteAt a = s.byteAt a := rfl

/-! ### `State.setSt` -/

@[simp] theorem State.setSt_v (s : State) (b : Byte) : (s.setSt b).v = s.v := rfl
@[simp] theorem State.setSt_i (s : State) (b : Byte) : (s.setSt b).i = s.i := rfl
@[simp] theorem State.setSt_pc (s : State) (b : Byte) : (s.setSt b).pc = s.pc := rfl
@[simp] theorem State.setSt_stack (s : State) (b : Byte) : (s.setSt b).stack = s.stack := rfl
@[simp] theorem State.setSt_sp (s : State) (b : Byte) : (s.setSt b).sp = s.sp := rfl
@[simp] theorem State.setSt_dt (s : State) (b : Byte) : (s.setSt b).dt = s.dt := rfl
@[simp] theorem State.setSt_st (s : State) (b : Byte) : (s.setSt b).st = b := rfl
@[simp] theorem State.setSt_fb (s : State) (b : Byte) : (s.setSt b).fb = s.fb := rfl
@[simp] theorem State.setSt_mem (s : State) (b : Byte) : (s.setSt b).mem = s.mem := rfl
@[simp] theorem State.setSt_run (s : State) (b : Byte) : (s.setSt b).run = s.run := rfl
@[simp] theorem State.setSt_fault (s : State) (b : Byte) : (s.setSt b).fault = s.fault := rfl
@[simp] theorem State.setSt_unimpl (s : State) (b : Byte) : (s.setSt b).unimpl = s.unimpl := rfl
@[simp] theorem State.setSt_waitX (s : State) (b : Byte) : (s.setSt b).waitX = s.waitX := rfl
@[simp] theorem State.setSt_keyPrev (s : State) (b : Byte) : (s.setSt b).keyPrev = s.keyPrev := rfl
@[simp] theorem State.setSt_straps (s : State) (b : Byte) : (s.setSt b).straps = s.straps := rfl
@[simp] theorem State.setSt_cfg (s : State) (b : Byte) : (s.setSt b).cfg = s.cfg := rfl
@[simp] theorem State.setSt_env (s : State) (b : Byte) : (s.setSt b).env = s.env := rfl
@[simp] theorem State.setSt_reg (s : State) (b : Byte) (r : Reg) : (s.setSt b).reg r = s.reg r := rfl
@[simp] theorem State.setSt_byteAt (s : State) (b : Byte) (a : Nat) : (s.setSt b).byteAt a = s.byteAt a := rfl

/-! ### `State.setFb` -/

@[simp] theorem State.setFb_v (s : State) (f : Framebuffer) : (s.setFb f).v = s.v := rfl
@[simp] theorem State.setFb_i (s : State) (f : Framebuffer) : (s.setFb f).i = s.i := rfl
@[simp] theorem State.setFb_pc (s : State) (f : Framebuffer) : (s.setFb f).pc = s.pc := rfl
@[simp] theorem State.setFb_stack (s : State) (f : Framebuffer) : (s.setFb f).stack = s.stack := rfl
@[simp] theorem State.setFb_sp (s : State) (f : Framebuffer) : (s.setFb f).sp = s.sp := rfl
@[simp] theorem State.setFb_dt (s : State) (f : Framebuffer) : (s.setFb f).dt = s.dt := rfl
@[simp] theorem State.setFb_st (s : State) (f : Framebuffer) : (s.setFb f).st = s.st := rfl
@[simp] theorem State.setFb_fb (s : State) (f : Framebuffer) : (s.setFb f).fb = f := rfl
@[simp] theorem State.setFb_mem (s : State) (f : Framebuffer) : (s.setFb f).mem = s.mem := rfl
@[simp] theorem State.setFb_run (s : State) (f : Framebuffer) : (s.setFb f).run = s.run := rfl
@[simp] theorem State.setFb_fault (s : State) (f : Framebuffer) : (s.setFb f).fault = s.fault := rfl
@[simp] theorem State.setFb_unimpl (s : State) (f : Framebuffer) : (s.setFb f).unimpl = s.unimpl := rfl
@[simp] theorem State.setFb_waitX (s : State) (f : Framebuffer) : (s.setFb f).waitX = s.waitX := rfl
@[simp] theorem State.setFb_keyPrev (s : State) (f : Framebuffer) : (s.setFb f).keyPrev = s.keyPrev := rfl
@[simp] theorem State.setFb_straps (s : State) (f : Framebuffer) : (s.setFb f).straps = s.straps := rfl
@[simp] theorem State.setFb_cfg (s : State) (f : Framebuffer) : (s.setFb f).cfg = s.cfg := rfl
@[simp] theorem State.setFb_env (s : State) (f : Framebuffer) : (s.setFb f).env = s.env := rfl
@[simp] theorem State.setFb_reg (s : State) (f : Framebuffer) (r : Reg) : (s.setFb f).reg r = s.reg r := rfl
@[simp] theorem State.setFb_byteAt (s : State) (f : Framebuffer) (a : Nat) : (s.setFb f).byteAt a = s.byteAt a := rfl

/-! ### `State.setMem` -/

@[simp] theorem State.setMem_v (s : State) (m : Memory) : (s.setMem m).v = s.v := rfl
@[simp] theorem State.setMem_i (s : State) (m : Memory) : (s.setMem m).i = s.i := rfl
@[simp] theorem State.setMem_pc (s : State) (m : Memory) : (s.setMem m).pc = s.pc := rfl
@[simp] theorem State.setMem_stack (s : State) (m : Memory) : (s.setMem m).stack = s.stack := rfl
@[simp] theorem State.setMem_sp (s : State) (m : Memory) : (s.setMem m).sp = s.sp := rfl
@[simp] theorem State.setMem_dt (s : State) (m : Memory) : (s.setMem m).dt = s.dt := rfl
@[simp] theorem State.setMem_st (s : State) (m : Memory) : (s.setMem m).st = s.st := rfl
@[simp] theorem State.setMem_fb (s : State) (m : Memory) : (s.setMem m).fb = s.fb := rfl
@[simp] theorem State.setMem_mem (s : State) (m : Memory) : (s.setMem m).mem = m := rfl
@[simp] theorem State.setMem_run (s : State) (m : Memory) : (s.setMem m).run = s.run := rfl
@[simp] theorem State.setMem_fault (s : State) (m : Memory) : (s.setMem m).fault = s.fault := rfl
@[simp] theorem State.setMem_unimpl (s : State) (m : Memory) : (s.setMem m).unimpl = s.unimpl := rfl
@[simp] theorem State.setMem_waitX (s : State) (m : Memory) : (s.setMem m).waitX = s.waitX := rfl
@[simp] theorem State.setMem_keyPrev (s : State) (m : Memory) : (s.setMem m).keyPrev = s.keyPrev := rfl
@[simp] theorem State.setMem_straps (s : State) (m : Memory) : (s.setMem m).straps = s.straps := rfl
@[simp] theorem State.setMem_cfg (s : State) (m : Memory) : (s.setMem m).cfg = s.cfg := rfl
@[simp] theorem State.setMem_env (s : State) (m : Memory) : (s.setMem m).env = s.env := rfl
@[simp] theorem State.setMem_reg (s : State) (m : Memory) (r : Reg) : (s.setMem m).reg r = s.reg r := rfl
theorem State.setMem_byteAt (s : State) (m : Memory) (a : Nat) : (s.setMem m).byteAt a = Memory.read s.cfg m a := rfl

/-! ### `State.setRun` -/

@[simp] theorem State.setRun_v (s : State) (r : RunState) : (s.setRun r).v = s.v := rfl
@[simp] theorem State.setRun_i (s : State) (r : RunState) : (s.setRun r).i = s.i := rfl
@[simp] theorem State.setRun_pc (s : State) (r : RunState) : (s.setRun r).pc = s.pc := rfl
@[simp] theorem State.setRun_stack (s : State) (r : RunState) : (s.setRun r).stack = s.stack := rfl
@[simp] theorem State.setRun_sp (s : State) (r : RunState) : (s.setRun r).sp = s.sp := rfl
@[simp] theorem State.setRun_dt (s : State) (r : RunState) : (s.setRun r).dt = s.dt := rfl
@[simp] theorem State.setRun_st (s : State) (r : RunState) : (s.setRun r).st = s.st := rfl
@[simp] theorem State.setRun_fb (s : State) (r : RunState) : (s.setRun r).fb = s.fb := rfl
@[simp] theorem State.setRun_mem (s : State) (r : RunState) : (s.setRun r).mem = s.mem := rfl
@[simp] theorem State.setRun_run (s : State) (r : RunState) : (s.setRun r).run = r := rfl
@[simp] theorem State.setRun_fault (s : State) (r : RunState) : (s.setRun r).fault = s.fault := rfl
@[simp] theorem State.setRun_unimpl (s : State) (r : RunState) : (s.setRun r).unimpl = s.unimpl := rfl
@[simp] theorem State.setRun_waitX (s : State) (r : RunState) : (s.setRun r).waitX = s.waitX := rfl
@[simp] theorem State.setRun_keyPrev (s : State) (r : RunState) : (s.setRun r).keyPrev = s.keyPrev := rfl
@[simp] theorem State.setRun_straps (s : State) (r : RunState) : (s.setRun r).straps = s.straps := rfl
@[simp] theorem State.setRun_cfg (s : State) (r : RunState) : (s.setRun r).cfg = s.cfg := rfl
@[simp] theorem State.setRun_env (s : State) (r : RunState) : (s.setRun r).env = s.env := rfl
@[simp] theorem State.setRun_reg (s : State) (r : RunState) (y : Reg) : (s.setRun r).reg y = s.reg y := rfl
@[simp] theorem State.setRun_byteAt (s : State) (r : RunState) (a : Nat) : (s.setRun r).byteAt a = s.byteAt a := rfl

/-! ### `State.setFault` -/

@[simp] theorem State.setFault_v (s : State) (r : FaultRecord) : (s.setFault r).v = s.v := rfl
@[simp] theorem State.setFault_i (s : State) (r : FaultRecord) : (s.setFault r).i = s.i := rfl
@[simp] theorem State.setFault_pc (s : State) (r : FaultRecord) : (s.setFault r).pc = s.pc := rfl
@[simp] theorem State.setFault_stack (s : State) (r : FaultRecord) : (s.setFault r).stack = s.stack := rfl
@[simp] theorem State.setFault_sp (s : State) (r : FaultRecord) : (s.setFault r).sp = s.sp := rfl
@[simp] theorem State.setFault_dt (s : State) (r : FaultRecord) : (s.setFault r).dt = s.dt := rfl
@[simp] theorem State.setFault_st (s : State) (r : FaultRecord) : (s.setFault r).st = s.st := rfl
@[simp] theorem State.setFault_fb (s : State) (r : FaultRecord) : (s.setFault r).fb = s.fb := rfl
@[simp] theorem State.setFault_mem (s : State) (r : FaultRecord) : (s.setFault r).mem = s.mem := rfl
@[simp] theorem State.setFault_run (s : State) (r : FaultRecord) : (s.setFault r).run = s.run := rfl
@[simp] theorem State.setFault_fault (s : State) (r : FaultRecord) : (s.setFault r).fault = r := rfl
@[simp] theorem State.setFault_unimpl (s : State) (r : FaultRecord) : (s.setFault r).unimpl = s.unimpl := rfl
@[simp] theorem State.setFault_waitX (s : State) (r : FaultRecord) : (s.setFault r).waitX = s.waitX := rfl
@[simp] theorem State.setFault_keyPrev (s : State) (r : FaultRecord) : (s.setFault r).keyPrev = s.keyPrev := rfl
@[simp] theorem State.setFault_straps (s : State) (r : FaultRecord) : (s.setFault r).straps = s.straps := rfl
@[simp] theorem State.setFault_cfg (s : State) (r : FaultRecord) : (s.setFault r).cfg = s.cfg := rfl
@[simp] theorem State.setFault_env (s : State) (r : FaultRecord) : (s.setFault r).env = s.env := rfl
@[simp] theorem State.setFault_reg (s : State) (r : FaultRecord) (y : Reg) : (s.setFault r).reg y = s.reg y := rfl
@[simp] theorem State.setFault_byteAt (s : State) (r : FaultRecord) (a : Nat) : (s.setFault r).byteAt a = s.byteAt a := rfl

/-! ### `State.setUnimpl` -/

@[simp] theorem State.setUnimpl_v (s : State) (r : UnimplRecord) : (s.setUnimpl r).v = s.v := rfl
@[simp] theorem State.setUnimpl_i (s : State) (r : UnimplRecord) : (s.setUnimpl r).i = s.i := rfl
@[simp] theorem State.setUnimpl_pc (s : State) (r : UnimplRecord) : (s.setUnimpl r).pc = s.pc := rfl
@[simp] theorem State.setUnimpl_stack (s : State) (r : UnimplRecord) : (s.setUnimpl r).stack = s.stack := rfl
@[simp] theorem State.setUnimpl_sp (s : State) (r : UnimplRecord) : (s.setUnimpl r).sp = s.sp := rfl
@[simp] theorem State.setUnimpl_dt (s : State) (r : UnimplRecord) : (s.setUnimpl r).dt = s.dt := rfl
@[simp] theorem State.setUnimpl_st (s : State) (r : UnimplRecord) : (s.setUnimpl r).st = s.st := rfl
@[simp] theorem State.setUnimpl_fb (s : State) (r : UnimplRecord) : (s.setUnimpl r).fb = s.fb := rfl
@[simp] theorem State.setUnimpl_mem (s : State) (r : UnimplRecord) : (s.setUnimpl r).mem = s.mem := rfl
@[simp] theorem State.setUnimpl_run (s : State) (r : UnimplRecord) : (s.setUnimpl r).run = s.run := rfl
@[simp] theorem State.setUnimpl_fault (s : State) (r : UnimplRecord) : (s.setUnimpl r).fault = s.fault := rfl
@[simp] theorem State.setUnimpl_unimpl (s : State) (r : UnimplRecord) : (s.setUnimpl r).unimpl = r := rfl
@[simp] theorem State.setUnimpl_waitX (s : State) (r : UnimplRecord) : (s.setUnimpl r).waitX = s.waitX := rfl
@[simp] theorem State.setUnimpl_keyPrev (s : State) (r : UnimplRecord) : (s.setUnimpl r).keyPrev = s.keyPrev := rfl
@[simp] theorem State.setUnimpl_straps (s : State) (r : UnimplRecord) : (s.setUnimpl r).straps = s.straps := rfl
@[simp] theorem State.setUnimpl_cfg (s : State) (r : UnimplRecord) : (s.setUnimpl r).cfg = s.cfg := rfl
@[simp] theorem State.setUnimpl_env (s : State) (r : UnimplRecord) : (s.setUnimpl r).env = s.env := rfl
@[simp] theorem State.setUnimpl_reg (s : State) (r : UnimplRecord) (y : Reg) : (s.setUnimpl r).reg y = s.reg y := rfl
@[simp] theorem State.setUnimpl_byteAt (s : State) (r : UnimplRecord) (a : Nat) : (s.setUnimpl r).byteAt a = s.byteAt a := rfl

/-! ### `State.setWaitX` -/

@[simp] theorem State.setWaitX_v (s : State) (x : Reg) : (s.setWaitX x).v = s.v := rfl
@[simp] theorem State.setWaitX_i (s : State) (x : Reg) : (s.setWaitX x).i = s.i := rfl
@[simp] theorem State.setWaitX_pc (s : State) (x : Reg) : (s.setWaitX x).pc = s.pc := rfl
@[simp] theorem State.setWaitX_stack (s : State) (x : Reg) : (s.setWaitX x).stack = s.stack := rfl
@[simp] theorem State.setWaitX_sp (s : State) (x : Reg) : (s.setWaitX x).sp = s.sp := rfl
@[simp] theorem State.setWaitX_dt (s : State) (x : Reg) : (s.setWaitX x).dt = s.dt := rfl
@[simp] theorem State.setWaitX_st (s : State) (x : Reg) : (s.setWaitX x).st = s.st := rfl
@[simp] theorem State.setWaitX_fb (s : State) (x : Reg) : (s.setWaitX x).fb = s.fb := rfl
@[simp] theorem State.setWaitX_mem (s : State) (x : Reg) : (s.setWaitX x).mem = s.mem := rfl
@[simp] theorem State.setWaitX_run (s : State) (x : Reg) : (s.setWaitX x).run = s.run := rfl
@[simp] theorem State.setWaitX_fault (s : State) (x : Reg) : (s.setWaitX x).fault = s.fault := rfl
@[simp] theorem State.setWaitX_unimpl (s : State) (x : Reg) : (s.setWaitX x).unimpl = s.unimpl := rfl
@[simp] theorem State.setWaitX_waitX (s : State) (x : Reg) : (s.setWaitX x).waitX = x := rfl
@[simp] theorem State.setWaitX_keyPrev (s : State) (x : Reg) : (s.setWaitX x).keyPrev = s.keyPrev := rfl
@[simp] theorem State.setWaitX_straps (s : State) (x : Reg) : (s.setWaitX x).straps = s.straps := rfl
@[simp] theorem State.setWaitX_cfg (s : State) (x : Reg) : (s.setWaitX x).cfg = s.cfg := rfl
@[simp] theorem State.setWaitX_env (s : State) (x : Reg) : (s.setWaitX x).env = s.env := rfl
@[simp] theorem State.setWaitX_reg (s : State) (x : Reg) (r : Reg) : (s.setWaitX x).reg r = s.reg r := rfl
@[simp] theorem State.setWaitX_byteAt (s : State) (x : Reg) (a : Nat) : (s.setWaitX x).byteAt a = s.byteAt a := rfl

/-! ### `State.setKeyPrev` -/

@[simp] theorem State.setKeyPrev_v (s : State) (k : Word) : (s.setKeyPrev k).v = s.v := rfl
@[simp] theorem State.setKeyPrev_i (s : State) (k : Word) : (s.setKeyPrev k).i = s.i := rfl
@[simp] theorem State.setKeyPrev_pc (s : State) (k : Word) : (s.setKeyPrev k).pc = s.pc := rfl
@[simp] theorem State.setKeyPrev_stack (s : State) (k : Word) : (s.setKeyPrev k).stack = s.stack := rfl
@[simp] theorem State.setKeyPrev_sp (s : State) (k : Word) : (s.setKeyPrev k).sp = s.sp := rfl
@[simp] theorem State.setKeyPrev_dt (s : State) (k : Word) : (s.setKeyPrev k).dt = s.dt := rfl
@[simp] theorem State.setKeyPrev_st (s : State) (k : Word) : (s.setKeyPrev k).st = s.st := rfl
@[simp] theorem State.setKeyPrev_fb (s : State) (k : Word) : (s.setKeyPrev k).fb = s.fb := rfl
@[simp] theorem State.setKeyPrev_mem (s : State) (k : Word) : (s.setKeyPrev k).mem = s.mem := rfl
@[simp] theorem State.setKeyPrev_run (s : State) (k : Word) : (s.setKeyPrev k).run = s.run := rfl
@[simp] theorem State.setKeyPrev_fault (s : State) (k : Word) : (s.setKeyPrev k).fault = s.fault := rfl
@[simp] theorem State.setKeyPrev_unimpl (s : State) (k : Word) : (s.setKeyPrev k).unimpl = s.unimpl := rfl
@[simp] theorem State.setKeyPrev_waitX (s : State) (k : Word) : (s.setKeyPrev k).waitX = s.waitX := rfl
@[simp] theorem State.setKeyPrev_keyPrev (s : State) (k : Word) : (s.setKeyPrev k).keyPrev = k := rfl
@[simp] theorem State.setKeyPrev_straps (s : State) (k : Word) : (s.setKeyPrev k).straps = s.straps := rfl
@[simp] theorem State.setKeyPrev_cfg (s : State) (k : Word) : (s.setKeyPrev k).cfg = s.cfg := rfl
@[simp] theorem State.setKeyPrev_env (s : State) (k : Word) : (s.setKeyPrev k).env = s.env := rfl
@[simp] theorem State.setKeyPrev_reg (s : State) (k : Word) (r : Reg) : (s.setKeyPrev k).reg r = s.reg r := rfl
@[simp] theorem State.setKeyPrev_byteAt (s : State) (k : Word) (a : Nat) : (s.setKeyPrev k).byteAt a = s.byteAt a := rfl

/-! ### `State.setEnv` -/

@[simp] theorem State.setEnv_v (s : State) (e : Env) : (s.setEnv e).v = s.v := rfl
@[simp] theorem State.setEnv_i (s : State) (e : Env) : (s.setEnv e).i = s.i := rfl
@[simp] theorem State.setEnv_pc (s : State) (e : Env) : (s.setEnv e).pc = s.pc := rfl
@[simp] theorem State.setEnv_stack (s : State) (e : Env) : (s.setEnv e).stack = s.stack := rfl
@[simp] theorem State.setEnv_sp (s : State) (e : Env) : (s.setEnv e).sp = s.sp := rfl
@[simp] theorem State.setEnv_dt (s : State) (e : Env) : (s.setEnv e).dt = s.dt := rfl
@[simp] theorem State.setEnv_st (s : State) (e : Env) : (s.setEnv e).st = s.st := rfl
@[simp] theorem State.setEnv_fb (s : State) (e : Env) : (s.setEnv e).fb = s.fb := rfl
@[simp] theorem State.setEnv_mem (s : State) (e : Env) : (s.setEnv e).mem = s.mem := rfl
@[simp] theorem State.setEnv_run (s : State) (e : Env) : (s.setEnv e).run = s.run := rfl
@[simp] theorem State.setEnv_fault (s : State) (e : Env) : (s.setEnv e).fault = s.fault := rfl
@[simp] theorem State.setEnv_unimpl (s : State) (e : Env) : (s.setEnv e).unimpl = s.unimpl := rfl
@[simp] theorem State.setEnv_waitX (s : State) (e : Env) : (s.setEnv e).waitX = s.waitX := rfl
@[simp] theorem State.setEnv_keyPrev (s : State) (e : Env) : (s.setEnv e).keyPrev = s.keyPrev := rfl
@[simp] theorem State.setEnv_straps (s : State) (e : Env) : (s.setEnv e).straps = s.straps := rfl
@[simp] theorem State.setEnv_cfg (s : State) (e : Env) : (s.setEnv e).cfg = s.cfg := rfl
@[simp] theorem State.setEnv_env (s : State) (e : Env) : (s.setEnv e).env = e := rfl
@[simp] theorem State.setEnv_reg (s : State) (e : Env) (r : Reg) : (s.setEnv e).reg r = s.reg r := rfl
@[simp] theorem State.setEnv_byteAt (s : State) (e : Env) (a : Nat) : (s.setEnv e).byteAt a = s.byteAt a := rfl

/-! ### `State.advance` -/

@[simp] theorem State.advance_v (s : State) : s.advance.v = s.v := rfl
@[simp] theorem State.advance_i (s : State) : s.advance.i = s.i := rfl
@[simp] theorem State.advance_pc (s : State) : s.advance.pc = s.pc + 2 := rfl
@[simp] theorem State.advance_stack (s : State) : s.advance.stack = s.stack := rfl
@[simp] theorem State.advance_sp (s : State) : s.advance.sp = s.sp := rfl
@[simp] theorem State.advance_dt (s : State) : s.advance.dt = s.dt := rfl
@[simp] theorem State.advance_st (s : State) : s.advance.st = s.st := rfl
@[simp] theorem State.advance_fb (s : State) : s.advance.fb = s.fb := rfl
@[simp] theorem State.advance_mem (s : State) : s.advance.mem = s.mem := rfl
@[simp] theorem State.advance_run (s : State) : s.advance.run = s.run := rfl
@[simp] theorem State.advance_fault (s : State) : s.advance.fault = s.fault := rfl
@[simp] theorem State.advance_unimpl (s : State) : s.advance.unimpl = s.unimpl := rfl
@[simp] theorem State.advance_waitX (s : State) : s.advance.waitX = s.waitX := rfl
@[simp] theorem State.advance_keyPrev (s : State) : s.advance.keyPrev = s.keyPrev := rfl
@[simp] theorem State.advance_straps (s : State) : s.advance.straps = s.straps := rfl
@[simp] theorem State.advance_cfg (s : State) : s.advance.cfg = s.cfg := rfl
@[simp] theorem State.advance_env (s : State) : s.advance.env = s.env := rfl
@[simp] theorem State.advance_reg (s : State) (r : Reg) : s.advance.reg r = s.reg r := rfl
@[simp] theorem State.advance_byteAt (s : State) (a : Nat) : s.advance.byteAt a = s.byteAt a := rfl

/-! ### Registers -/

@[simp] theorem State.setReg_reg (s : State) (x r : Reg) (b : Byte) :
    (s.setReg x b).reg r = if r = x then b else s.reg r := by
  simp only [State.reg, State.setReg, Vector.get_eq_getElem, Vector.getElem_set]
  by_cases h : r = x
  · simp [h]
  · simp [h, Fin.val_ne_of_ne (Ne.symm h)]

/-! ### The derived updates, field by field -/

@[simp] theorem State.skipIf_v (s : State) (c : Bool) : (s.skipIf c).v = s.v := by
  cases c <;> rfl
@[simp] theorem State.skipIf_i (s : State) (c : Bool) : (s.skipIf c).i = s.i := by
  cases c <;> rfl
@[simp] theorem State.skipIf_stack (s : State) (c : Bool) : (s.skipIf c).stack = s.stack := by
  cases c <;> rfl
@[simp] theorem State.skipIf_sp (s : State) (c : Bool) : (s.skipIf c).sp = s.sp := by
  cases c <;> rfl
@[simp] theorem State.skipIf_dt (s : State) (c : Bool) : (s.skipIf c).dt = s.dt := by
  cases c <;> rfl
@[simp] theorem State.skipIf_st (s : State) (c : Bool) : (s.skipIf c).st = s.st := by
  cases c <;> rfl
@[simp] theorem State.skipIf_fb (s : State) (c : Bool) : (s.skipIf c).fb = s.fb := by
  cases c <;> rfl
@[simp] theorem State.skipIf_mem (s : State) (c : Bool) : (s.skipIf c).mem = s.mem := by
  cases c <;> rfl
@[simp] theorem State.skipIf_run (s : State) (c : Bool) : (s.skipIf c).run = s.run := by
  cases c <;> rfl
@[simp] theorem State.skipIf_fault (s : State) (c : Bool) : (s.skipIf c).fault = s.fault := by
  cases c <;> rfl
@[simp] theorem State.skipIf_unimpl (s : State) (c : Bool) : (s.skipIf c).unimpl = s.unimpl := by
  cases c <;> rfl
@[simp] theorem State.skipIf_waitX (s : State) (c : Bool) : (s.skipIf c).waitX = s.waitX := by
  cases c <;> rfl
@[simp] theorem State.skipIf_keyPrev (s : State) (c : Bool) : (s.skipIf c).keyPrev = s.keyPrev := by
  cases c <;> rfl
@[simp] theorem State.skipIf_straps (s : State) (c : Bool) : (s.skipIf c).straps = s.straps := by
  cases c <;> rfl
@[simp] theorem State.skipIf_cfg (s : State) (c : Bool) : (s.skipIf c).cfg = s.cfg := by
  cases c <;> rfl
@[simp] theorem State.skipIf_env (s : State) (c : Bool) : (s.skipIf c).env = s.env := by
  cases c <;> rfl
@[simp] theorem State.skipIf_byteAt (s : State) (c : Bool) (k : Nat) : (s.skipIf c).byteAt k = s.byteAt k := by
  cases c <;> rfl

@[simp] theorem State.setFlag_i (s : State) (f : Bool) : (s.setFlag f).i = s.i := rfl
@[simp] theorem State.setFlag_pc (s : State) (f : Bool) : (s.setFlag f).pc = s.pc := rfl
@[simp] theorem State.setFlag_stack (s : State) (f : Bool) : (s.setFlag f).stack = s.stack := rfl
@[simp] theorem State.setFlag_sp (s : State) (f : Bool) : (s.setFlag f).sp = s.sp := rfl
@[simp] theorem State.setFlag_dt (s : State) (f : Bool) : (s.setFlag f).dt = s.dt := rfl
@[simp] theorem State.setFlag_st (s : State) (f : Bool) : (s.setFlag f).st = s.st := rfl
@[simp] theorem State.setFlag_fb (s : State) (f : Bool) : (s.setFlag f).fb = s.fb := rfl
@[simp] theorem State.setFlag_mem (s : State) (f : Bool) : (s.setFlag f).mem = s.mem := rfl
@[simp] theorem State.setFlag_run (s : State) (f : Bool) : (s.setFlag f).run = s.run := rfl
@[simp] theorem State.setFlag_fault (s : State) (f : Bool) : (s.setFlag f).fault = s.fault := rfl
@[simp] theorem State.setFlag_unimpl (s : State) (f : Bool) : (s.setFlag f).unimpl = s.unimpl := rfl
@[simp] theorem State.setFlag_waitX (s : State) (f : Bool) : (s.setFlag f).waitX = s.waitX := rfl
@[simp] theorem State.setFlag_keyPrev (s : State) (f : Bool) : (s.setFlag f).keyPrev = s.keyPrev := rfl
@[simp] theorem State.setFlag_straps (s : State) (f : Bool) : (s.setFlag f).straps = s.straps := rfl
@[simp] theorem State.setFlag_cfg (s : State) (f : Bool) : (s.setFlag f).cfg = s.cfg := rfl
@[simp] theorem State.setFlag_env (s : State) (f : Bool) : (s.setFlag f).env = s.env := rfl
@[simp] theorem State.setFlag_byteAt (s : State) (f : Bool) (k : Nat) : (s.setFlag f).byteAt k = s.byteAt k := rfl

@[simp] theorem State.setWithFlag_i (s : State) (x : Reg) (b : Byte) (f : Bool) : (s.setWithFlag x b f).i = s.i := rfl
@[simp] theorem State.setWithFlag_pc (s : State) (x : Reg) (b : Byte) (f : Bool) : (s.setWithFlag x b f).pc = s.pc := rfl
@[simp] theorem State.setWithFlag_stack (s : State) (x : Reg) (b : Byte) (f : Bool) : (s.setWithFlag x b f).stack = s.stack := rfl
@[simp] theorem State.setWithFlag_sp (s : State) (x : Reg) (b : Byte) (f : Bool) : (s.setWithFlag x b f).sp = s.sp := rfl
@[simp] theorem State.setWithFlag_dt (s : State) (x : Reg) (b : Byte) (f : Bool) : (s.setWithFlag x b f).dt = s.dt := rfl
@[simp] theorem State.setWithFlag_st (s : State) (x : Reg) (b : Byte) (f : Bool) : (s.setWithFlag x b f).st = s.st := rfl
@[simp] theorem State.setWithFlag_fb (s : State) (x : Reg) (b : Byte) (f : Bool) : (s.setWithFlag x b f).fb = s.fb := rfl
@[simp] theorem State.setWithFlag_mem (s : State) (x : Reg) (b : Byte) (f : Bool) : (s.setWithFlag x b f).mem = s.mem := rfl
@[simp] theorem State.setWithFlag_run (s : State) (x : Reg) (b : Byte) (f : Bool) : (s.setWithFlag x b f).run = s.run := rfl
@[simp] theorem State.setWithFlag_fault (s : State) (x : Reg) (b : Byte) (f : Bool) : (s.setWithFlag x b f).fault = s.fault := rfl
@[simp] theorem State.setWithFlag_unimpl (s : State) (x : Reg) (b : Byte) (f : Bool) : (s.setWithFlag x b f).unimpl = s.unimpl := rfl
@[simp] theorem State.setWithFlag_waitX (s : State) (x : Reg) (b : Byte) (f : Bool) : (s.setWithFlag x b f).waitX = s.waitX := rfl
@[simp] theorem State.setWithFlag_keyPrev (s : State) (x : Reg) (b : Byte) (f : Bool) : (s.setWithFlag x b f).keyPrev = s.keyPrev := rfl
@[simp] theorem State.setWithFlag_straps (s : State) (x : Reg) (b : Byte) (f : Bool) : (s.setWithFlag x b f).straps = s.straps := rfl
@[simp] theorem State.setWithFlag_cfg (s : State) (x : Reg) (b : Byte) (f : Bool) : (s.setWithFlag x b f).cfg = s.cfg := rfl
@[simp] theorem State.setWithFlag_env (s : State) (x : Reg) (b : Byte) (f : Bool) : (s.setWithFlag x b f).env = s.env := rfl
@[simp] theorem State.setWithFlag_byteAt (s : State) (x : Reg) (b : Byte) (f : Bool) (k : Nat) : (s.setWithFlag x b f).byteAt k = s.byteAt k := rfl

@[simp] theorem State.skipIf_reg (s : State) (c : Bool) (r : Reg) : (s.skipIf c).reg r = s.reg r := by
  cases c <;> rfl

/-- A skip adds 2 to PC exactly when its condition holds. -/
@[simp] theorem State.skipIf_pc (s : State) (c : Bool) : (s.skipIf c).pc = if c then s.pc + 2 else s.pc := by
  cases c <;> rfl

/-- The flag write, register by register. -/
@[simp] theorem State.setFlag_reg (s : State) (f : Bool) (r : Reg) :
    (s.setFlag f).reg r = if r = regFlag then flagByte f else s.reg r := by
  simp [State.setFlag]

/-- A result and a flag, register by register: the flag wins where both go to V[0xF]. -/
@[simp] theorem State.setWithFlag_reg (s : State) (x r : Reg) (b : Byte) (f : Bool) :
    (s.setWithFlag x b f).reg r = if r = regFlag then flagByte f else if r = x then b else s.reg r := by
  simp [State.setWithFlag]

/-! ### The block load of registers -/

/-- The block load touches nothing but V. -/
theorem State.setRegsFrom_eq (bs : List Byte) (s : State) (k : Nat) :
    s.setRegsFrom k bs = { s with v := (s.setRegsFrom k bs).v } := by
  induction bs generalizing s k with
  | nil => rfl
  | cons b bs ih => rw [State.setRegsFrom, ih]; rfl

@[simp] theorem State.setRegsFrom_i (s : State) (k : Nat) (bs : List Byte) : (s.setRegsFrom k bs).i = s.i := by
  rw [State.setRegsFrom_eq]
@[simp] theorem State.setRegsFrom_pc (s : State) (k : Nat) (bs : List Byte) : (s.setRegsFrom k bs).pc = s.pc := by
  rw [State.setRegsFrom_eq]
@[simp] theorem State.setRegsFrom_stack (s : State) (k : Nat) (bs : List Byte) : (s.setRegsFrom k bs).stack = s.stack := by
  rw [State.setRegsFrom_eq]
@[simp] theorem State.setRegsFrom_sp (s : State) (k : Nat) (bs : List Byte) : (s.setRegsFrom k bs).sp = s.sp := by
  rw [State.setRegsFrom_eq]
@[simp] theorem State.setRegsFrom_dt (s : State) (k : Nat) (bs : List Byte) : (s.setRegsFrom k bs).dt = s.dt := by
  rw [State.setRegsFrom_eq]
@[simp] theorem State.setRegsFrom_st (s : State) (k : Nat) (bs : List Byte) : (s.setRegsFrom k bs).st = s.st := by
  rw [State.setRegsFrom_eq]
@[simp] theorem State.setRegsFrom_fb (s : State) (k : Nat) (bs : List Byte) : (s.setRegsFrom k bs).fb = s.fb := by
  rw [State.setRegsFrom_eq]
@[simp] theorem State.setRegsFrom_mem (s : State) (k : Nat) (bs : List Byte) : (s.setRegsFrom k bs).mem = s.mem := by
  rw [State.setRegsFrom_eq]
@[simp] theorem State.setRegsFrom_run (s : State) (k : Nat) (bs : List Byte) : (s.setRegsFrom k bs).run = s.run := by
  rw [State.setRegsFrom_eq]
@[simp] theorem State.setRegsFrom_fault (s : State) (k : Nat) (bs : List Byte) : (s.setRegsFrom k bs).fault = s.fault := by
  rw [State.setRegsFrom_eq]
@[simp] theorem State.setRegsFrom_unimpl (s : State) (k : Nat) (bs : List Byte) : (s.setRegsFrom k bs).unimpl = s.unimpl := by
  rw [State.setRegsFrom_eq]
@[simp] theorem State.setRegsFrom_waitX (s : State) (k : Nat) (bs : List Byte) : (s.setRegsFrom k bs).waitX = s.waitX := by
  rw [State.setRegsFrom_eq]
@[simp] theorem State.setRegsFrom_keyPrev (s : State) (k : Nat) (bs : List Byte) : (s.setRegsFrom k bs).keyPrev = s.keyPrev := by
  rw [State.setRegsFrom_eq]
@[simp] theorem State.setRegsFrom_straps (s : State) (k : Nat) (bs : List Byte) : (s.setRegsFrom k bs).straps = s.straps := by
  rw [State.setRegsFrom_eq]
@[simp] theorem State.setRegsFrom_cfg (s : State) (k : Nat) (bs : List Byte) : (s.setRegsFrom k bs).cfg = s.cfg := by
  rw [State.setRegsFrom_eq]
@[simp] theorem State.setRegsFrom_env (s : State) (k : Nat) (bs : List Byte) : (s.setRegsFrom k bs).env = s.env := by
  rw [State.setRegsFrom_eq]

@[simp] theorem State.setRegsFrom_byteAt (s : State) (k : Nat) (bs : List Byte) (a : Nat) :
    (s.setRegsFrom k bs).byteAt a = s.byteAt a := by
  rw [State.setRegsFrom_eq]; rfl

/-- The block load from V[k] on: register r gets byte r - k of the block, and keeps its value where the block
does not reach. -/
theorem State.setRegsFrom_reg (bs : List Byte) (s : State) (k : Nat) (r : Reg) (h : k + bs.length ≤ 16) :
    (s.setRegsFrom k bs).reg r =
      if k ≤ r.val ∧ r.val < k + bs.length then bs.getD (r.val - k) 0 else s.reg r := by
  induction bs generalizing s k with
  | nil => simp [State.setRegsFrom]
  | cons b bs ih =>
    simp only [List.length_cons] at h ⊢
    rw [State.setRegsFrom, ih _ _ (by omega), State.setReg_reg]
    have hk : (Fin.ofNat 16 k).val = k := by simp [Fin.ofNat]; omega
    by_cases hr : r = Fin.ofNat 16 k
    · have hv : r.val = k := by rw [hr, hk]
      rw [if_neg (by omega), if_pos hr, if_pos (by omega), hv, Nat.sub_self, List.getD_cons_zero]
    · have hne : r.val ≠ k := fun e => hr (Fin.ext (by rw [hk, e]))
      by_cases h1 : k + 1 ≤ r.val ∧ r.val < k + 1 + bs.length
      · have h2 : k ≤ r.val ∧ r.val < k + (bs.length + 1) := by omega
        obtain ⟨j, hj⟩ : ∃ j, r.val - k = j + 1 := ⟨r.val - k - 1, by omega⟩
        rw [if_pos h1, if_pos h2, hj, List.getD_cons_succ]
        congr 1; omega
      · have h2 : ¬(k ≤ r.val ∧ r.val < k + (bs.length + 1)) := by omega
        rw [if_neg h1, if_neg h2, if_neg hr]

end Sys2Proof.Machine
end

