-- ==== Sys2Proof/Laws/Ops.lean ====
section
/-! SUPPORT. One lemma per shared operation that says everything it can do; the provers cite these instead of
unfolding the operations. -/

namespace Sys2Proof.Machine

/-! ### Memory -/

theorem inBounds_iff (a n : Nat) : inBounds a n = true ↔ n = 0 ∨ a + n ≤ 0x1000 := by
  simp [inBounds]

/-- What a checked read answers. -/
theorem memRead_cases (s : State) (a n : Nat) :
    (inBounds a n = true ∧ memRead s a n = .ok (Memory.readBlock s.cfg s.mem a n)) ∨
      (inBounds a n = false ∧ memRead s a n = .error .addressError) := by
  unfold memRead
  cases h : inBounds a n <;> simp

/-- What the 16-bit read answers. -/
theorem memRead16_cases (s : State) (a : Nat) :
    (a + 1 ≤ 0xFFF ∧ memRead16 s a = .ok (wordOfBytes (s.byteAt a) (s.byteAt (a + 1)))) ∨
      (0xFFF < a + 1 ∧ memRead16 s a = .error .addressError) := by
  unfold memRead16
  by_cases h : a + 1 ≤ 0xFFF
  · have hb : inBounds a 2 = true := by rw [inBounds_iff]; omega
    exact .inl ⟨h, by rw [if_pos hb]⟩
  · have hb : ¬inBounds a 2 = true := by rw [inBounds_iff]; omega
    exact .inr ⟨by omega, by rw [if_neg hb]⟩

/-- What a checked write answers. -/
theorem memWrite_cases (s : State) (a : Nat) (bs : List Byte) :
    (inBounds a bs.length = true ∧ memWrite s a bs = .ok (s.setMem (Memory.writeBlock s.cfg s.mem a bs))) ∨
      (inBounds a bs.length = false ∧ memWrite s a bs = .error .addressError) := by
  unfold memWrite
  cases h : inBounds a bs.length <;> simp

/-- MEM[x] of a state after a block write. -/
theorem byteAt_writeBlock (s : State) (a x : Nat) (bs : List Byte) :
    (s.setMem (Memory.writeBlock s.cfg s.mem a bs)).byteAt x =
      if a ≤ x ∧ x < a + bs.length then bs.getD (x - a) 0 else s.byteAt x :=
  Memory.read_writeBlock s.cfg bs s.mem a x

/-! ### The call stack -/

/-- What Push answers. -/
theorem push_cases (s : State) (w : Word) :
    (s.sp = s.cfg.stackDepth ∧ push s w = .error .stackOverflow) ∨
      (s.sp ≠ s.cfg.stackDepth ∧ push s w = .ok (s.setStack (s.stack.set s.sp w) (s.sp + 1))) := by
  unfold push
  by_cases h : s.sp = s.cfg.stackDepth
  · exact .inl ⟨h, if_pos h⟩
  · exact .inr ⟨h, if_neg h⟩

/-- What Pop answers. -/
theorem pop_cases (s : State) :
    (s.sp = 0 ∧ pop s = .error .stackUnderflow) ∨
      (s.sp ≠ 0 ∧ pop s = .ok (s.stack.getD (s.sp - 1) 0, s.setStack s.stack (s.sp - 1))) := by
  unfold pop
  by_cases h : s.sp = 0
  · exact .inl ⟨h, if_pos h⟩
  · exact .inr ⟨h, if_neg h⟩

/-! ### Fault entry -/

@[simp] theorem enterFault_run (f : Fault) (a w : Word) (s : State) : (enterFault f a w s).run = .halted := rfl
@[simp] theorem enterFault_fault (f : Fault) (a w : Word) (s : State) :
    (enterFault f a w s).fault = { code := faultCode f, pc := a, insn := w } := rfl

/-- Fault entry changes RUN and the fault record and nothing else. -/
theorem enterFault_eq (f : Fault) (a w : Word) (s : State) :
    enterFault f a w s =
      { s with run := .halted, fault := { code := faultCode f, pc := a, insn := w } } := rfl

theorem faultCode_pos (f : Fault) : faultCode f ≠ 0 ∧ (faultCode f).toNat ≤ 4 := by
  cases f <;> decide

theorem faultCode_injective (f g : Fault) (h : faultCode f = faultCode g) : f = g := by
  cases f <;> cases g <;> first | rfl | (revert h; decide)

/-! ### Commit or abort -/

/-- What the performance of an instruction answers: always a next state, the rule's own or the fault entry. -/
theorem perform_cases (i : Instr) (rule : State → Except Fault State) (s : State) :
    (∃ t, rule s.advance = .ok t ∧ perform i rule s = .next t) ∨
      (∃ f, rule s.advance = .error f ∧ perform i rule s = .next (enterFault f s.pc (encode i) s)) := by
  unfold perform
  cases h : rule s.advance with
  | ok t => exact .inl ⟨t, rfl, rfl⟩
  | error f => exact .inr ⟨f, rfl, rfl⟩

/-- A rule that raises nothing. -/
theorem perform_ok (i : Instr) (rule : State → Except Fault State) (s t : State) (h : rule s.advance = .ok t) :
    perform i rule s = .next t := by
  simp [perform, h]

/-- A rule that raises. -/
theorem perform_error (i : Instr) (rule : State → Except Fault State) (s : State) (f : Fault)
    (h : rule s.advance = .error f) : perform i rule s = .next (enterFault f s.pc (encode i) s) := by
  simp [perform, h]

/-! ### Flags -/

theorem flagByte_zero_or_one (f : Bool) : flagByte f = 0x00 ∨ flagByte f = 0x01 := by
  cases f <;> simp [flagByte]

/-! ### Operands -/

@[simp] theorem regBlock_length (x : Reg) (s : State) : (regBlock x s).length = x.val + 1 := by
  simp [regBlock, blockLength]

/-- Byte k of the register block is V[k]. -/
theorem regBlock_getD (x : Reg) (s : State) (k : Reg) (h : k.val ≤ x.val) :
    (regBlock x s).getD k.val 0 = s.reg k := by
  have hk : k.val < blockLength x := by unfold blockLength; omega
  simp [regBlock, hk, State.reg, Vector.get_eq_getElem]

@[simp] theorem decimalDigits_length (b : Byte) : (decimalDigits b).length = 3 := rfl

/-! ### Ticks -/

theorem ticks_zero (s : State) : ticks 0 s = s := by
  simp [ticks, State.setDt, State.setSt]

/-- A row of Ticks is Tick after Tick. -/
theorem ticks_succ (k : Nat) (s : State) : ticks (k + 1) s = ticks k (tick s) := by
  have hb : ∀ b : Byte, BitVec.ofNat 8 (b.toNat - (k + 1)) = BitVec.ofNat 8 ((decrement b).toNat - k) := by
    intro b
    unfold decrement
    split
    · rename_i h; subst h; simp
    · rename_i h
      congr 1
      have h1 : b.toNat ≠ 0 := fun e => h (BitVec.eq_of_toNat_eq (by simpa using e))
      have h2 := b.isLt
      have : (b - 1).toNat = b.toNat - 1 := by
        rw [BitVec.toNat_sub]; simp; omega
      omega
  simp [ticks, tick, State.setDt, State.setSt, hb]

end Sys2Proof.Machine
end

