-- ==== Sys2Proof/Laws/Events.lean ====
section
/-! SUPPORT. What the events other than Step can do. -/

namespace Sys2Proof.Machine

/-- A decrement on numbers. -/
theorem decrement_toNat (b : Byte) : (decrement b).toNat = b.toNat - 1 := by
  revert b; decide

/-- A row of Ticks is Tick iterated. -/
theorem ticks_eq_iterate (n : Nat) (s : State) : ticks n s = tick^[n] s := by
  induction n generalizing s with
  | zero => rw [ticks_zero]; rfl
  | succ n ih => rw [ticks_succ, ih]; rfl

/-- A row of Ticks changes nothing but the timers. -/
theorem ticks_eq (n : Nat) (s : State) : ticks n s = { s with dt := (ticks n s).dt, st := (ticks n s).st } := rfl

theorem firstKey_eq (m : Word) : firstKey m = (List.range 16).find? (fun k => m.getLsbD k) := rfl

/-- `first_key`: none for 0, else the least key of the vector. -/
theorem firstKey_cases (m : Word) :
    (m = 0 ∧ firstKey m = none) ∨
      ∃ k, firstKey m = some k ∧ k < 16 ∧ m.getLsbD k = true ∧ ∀ j, j < k → m.getLsbD j = false := by
  cases h : firstKey m with
  | none =>
    refine .inl ⟨?_, rfl⟩
    rw [firstKey_eq, List.find?_range_eq_none] at h
    apply BitVec.eq_of_getLsbD_eq
    intro i hi
    simpa using h i hi
  | some k =>
    refine .inr ⟨k, rfl, ?_⟩
    rw [firstKey_eq, List.find?_range_eq_some] at h
    exact ⟨List.mem_range.1 h.2.1, h.1, fun j hj => by simpa using h.2.2 j hj⟩

/-- What a KeySample does. -/
theorem keySample_cases (keys : Word) (s : State) :
    (s.run ≠ .awaitingKey ∧ keySample keys s = s) ∨
      (s.run = .awaitingKey ∧ keys &&& ~~~s.keyPrev = 0 ∧ keySample keys s = s.setKeyPrev keys) ∨
      (s.run = .awaitingKey ∧ ∃ k, firstKey (keys &&& ~~~s.keyPrev) = some k ∧ k < 16 ∧
        keySample keys s = ((s.setReg s.waitX (BitVec.ofNat 8 k)).setRun .running).setKeyPrev keys) := by
  unfold keySample
  by_cases hr : s.run = .awaitingKey
  · rw [if_pos hr]
    rcases firstKey_cases (keys &&& ~~~s.keyPrev) with ⟨h0, h⟩ | ⟨k, h, hk, -⟩
    · exact .inr (.inl ⟨hr, h0, by rw [h]⟩)
    · exact .inr (.inr ⟨hr, k, h, hk, by rw [h]⟩)
  · exact .inl ⟨hr, if_neg hr⟩

/-- A KeySample changes nothing but V, RUN and KEY_PREV. -/
theorem keySample_eq (keys : Word) (s : State) :
    keySample keys s =
      { s with v := (keySample keys s).v, run := (keySample keys s).run, keyPrev := (keySample keys s).keyPrev } := by
  rcases keySample_cases keys s with ⟨-, h⟩ | ⟨-, -, h⟩ | ⟨-, k, -, -, h⟩ <;> rw [h] <;> rfl

/-- Only a waiting core is set running by a KeySample, and none is halted. -/
theorem keySample_run (keys : Word) (s : State) :
    (keySample keys s).run = s.run ∨ (s.run = .awaitingKey ∧ (keySample keys s).run = .running) := by
  rcases keySample_cases keys s with ⟨-, h⟩ | ⟨-, -, h⟩ | ⟨hr, k, -, -, h⟩
  · exact .inl (by rw [h])
  · exact .inl (by rw [h]; rfl)
  · exact .inr ⟨hr, by rw [h]; rfl⟩

/-- The state on which an unlisted period's Step runs. -/
theorem unlistedInputs_eq (s : State) :
    unlistedInputs s =
      (keySample (Config.freeSample s.env.draws) (ticks (Config.freeTicks s.env.draws) s)).setEnv
        { s.env with
          keys := Config.freeKeys s.env.draws
          rnd := Config.freeRnd s.env.draws
          draws := s.env.draws + 1 } := by
  have h : (keySample (Config.freeSample s.env.draws) (ticks (Config.freeTicks s.env.draws) s)).env = s.env := by
    rw [keySample_eq]; rfl
  unfold unlistedInputs
  simp only [h]

end Sys2Proof.Machine
end

