-- ==== Sys2Proof/Laws/Exec.lean ====
section
/-! SUPPORT. What each instruction answers, one equation per constructor, and what a cycle and a step can do. The
meanings are unfolded here once. -/

namespace Sys2Proof.Machine

/-! ### Instructions that raise nothing -/

theorem exec_cls (s : State) : exec .cls s = .next (s.advance.setFb blankScreen) := rfl

theorem exec_jp (nnn : BitVec 12) (s : State) : exec (.jp nnn) s = .next (s.setPc (zextAddr nnn)) := rfl

theorem exec_seVxNn (x : Reg) (nn : Byte) (s : State) :
    exec (.seVxNn x nn) s = .next (s.advance.skipIf (s.reg x == nn)) := rfl

theorem exec_sneVxNn (x : Reg) (nn : Byte) (s : State) :
    exec (.sneVxNn x nn) s = .next (s.advance.skipIf (s.reg x != nn)) := rfl

theorem exec_seVxVy (x y : Reg) (s : State) :
    exec (.seVxVy x y) s = .next (s.advance.skipIf (s.reg x == s.reg y)) := rfl

theorem exec_sneVxVy (x y : Reg) (s : State) :
    exec (.sneVxVy x y) s = .next (s.advance.skipIf (s.reg x != s.reg y)) := rfl

theorem exec_jpV0 (nnn : BitVec 12) (s : State) :
    exec (.jpV0 nnn) s = .next (s.setPc (zextAddr nnn + zextByte (s.reg 0))) := rfl

theorem exec_ldVxNn (x : Reg) (nn : Byte) (s : State) :
    exec (.ldVxNn x nn) s = .next (s.advance.setReg x nn) := rfl

theorem exec_addVxNn (x : Reg) (nn : Byte) (s : State) :
    exec (.addVxNn x nn) s = .next (s.advance.setReg x (s.reg x + nn)) := rfl

theorem exec_ldVxVy (x y : Reg) (s : State) :
    exec (.ldVxVy x y) s = .next (s.advance.setReg x (s.reg y)) := rfl

theorem exec_or (x y : Reg) (s : State) :
    exec (.or x y) s = .next (s.advance.setReg x (s.reg x ||| s.reg y)) := rfl

theorem exec_and (x y : Reg) (s : State) :
    exec (.and x y) s = .next (s.advance.setReg x (s.reg x &&& s.reg y)) := rfl

theorem exec_xor (x y : Reg) (s : State) :
    exec (.xor x y) s = .next (s.advance.setReg x (s.reg x ^^^ s.reg y)) := rfl

theorem exec_addVxVy (x y : Reg) (s : State) :
    exec (.addVxVy x y) s =
      .next (s.advance.setWithFlag x (s.reg x + s.reg y) (carryOut (s.reg x) (s.reg y))) := rfl

theorem exec_sub (x y : Reg) (s : State) :
    exec (.sub x y) s =
      .next (s.advance.setWithFlag x (s.reg x - s.reg y) (noBorrow (s.reg x) (s.reg y))) := rfl

theorem exec_subn (x y : Reg) (s : State) :
    exec (.subn x y) s =
      .next (s.advance.setWithFlag x (s.reg y - s.reg x) (noBorrow (s.reg y) (s.reg x))) := rfl

theorem exec_shr (x y : Reg) (s : State) :
    exec (.shr x y) s =
      .next (s.advance.setWithFlag x (shiftSource x y s >>> 1) (shiftedOutRight (shiftSource x y s))) := rfl

theorem exec_shl (x y : Reg) (s : State) :
    exec (.shl x y) s =
      .next (s.advance.setWithFlag x (shiftSource x y s <<< 1) (shiftedOutLeft (shiftSource x y s))) := rfl

theorem exec_rnd (x : Reg) (nn : Byte) (s : State) :
    exec (.rnd x nn) s = .next (s.advance.setReg x (s.env.rnd &&& nn)) := rfl

theorem exec_ldINnn (nnn : BitVec 12) (s : State) :
    exec (.ldINnn nnn) s = .next (s.advance.setI (zextAddr nnn)) := rfl

theorem exec_addIVx (x : Reg) (s : State) :
    exec (.addIVx x) s = .next (s.advance.setI (indexPlus s.i (s.reg x))) := rfl

theorem exec_ldFVx (x : Reg) (s : State) :
    exec (.ldFVx x) s = .next (s.advance.setI (glyphAddress s.cfg (s.reg x))) := rfl

theorem exec_skp (x : Reg) (s : State) : exec (.skp x) s = .next (s.advance.skipIf (keyPressed x s)) := rfl

theorem exec_sknp (x : Reg) (s : State) : exec (.sknp x) s = .next (s.advance.skipIf (!keyPressed x s)) := rfl

theorem exec_ldVxDt (x : Reg) (s : State) : exec (.ldVxDt x) s = .next (s.advance.setReg x s.dt) := rfl

theorem exec_ldVxK (x : Reg) (s : State) :
    exec (.ldVxK x) s = .next (((s.advance.setWaitX x).setKeyPrev s.env.keys).setRun .awaitingKey) := rfl

theorem exec_ldDtVx (x : Reg) (s : State) : exec (.ldDtVx x) s = .next (s.advance.setDt (s.reg x)) := rfl

theorem exec_ldStVx (x : Reg) (s : State) : exec (.ldStVx x) s = .next (s.advance.setSt (s.reg x)) := rfl

/-! ### Instructions that may raise a fault -/

theorem exec_ret_ok (s : State) (h : s.sp ≠ 0) :
    exec .ret s = .next ((s.setStack s.stack (s.sp - 1)).setPc (s.stack.getD (s.sp - 1) 0)) := by
  have := (pop_cases s.advance).resolve_left (fun e => h e.1)
  refine perform_ok .ret
    (fun t => (pop t).map (fun p => p.2.setPc p.1)) s _ (by rw [this.2]; rfl)

theorem exec_ret_fault (s : State) (h : s.sp = 0) :
    exec .ret s = .next (enterFault .stackUnderflow s.pc (encode .ret) s) := by
  have := (pop_cases s.advance).resolve_right (fun e => e.1 h)
  refine perform_error .ret
    (fun t => (pop t).map (fun p => p.2.setPc p.1)) s _ (by rw [this.2]; rfl)

theorem exec_call_ok (nnn : BitVec 12) (s : State) (h : s.sp ≠ s.cfg.stackDepth) :
    exec (.call nnn) s =
      .next ((s.setStack (s.stack.set s.sp (s.pc + 2)) (s.sp + 1)).setPc (zextAddr nnn)) := by
  have := (push_cases s.advance s.advance.pc).resolve_left (fun e => h e.1)
  refine perform_ok (.call nnn)
    (fun t => (push t t.pc).map (fun u => u.setPc (zextAddr nnn))) s _ (by rw [this.2]; rfl)

theorem exec_call_fault (nnn : BitVec 12) (s : State) (h : s.sp = s.cfg.stackDepth) :
    exec (.call nnn) s = .next (enterFault .stackOverflow s.pc (encode (.call nnn)) s) := by
  have := (push_cases s.advance s.advance.pc).resolve_right (fun e => e.1 h)
  refine perform_error (.call nnn)
    (fun t => (push t t.pc).map (fun u => u.setPc (zextAddr nnn))) s _ (by rw [this.2]; rfl)

theorem exec_ldBVx_ok (x : Reg) (s : State) (h : s.i.toNat + 2 ≤ 0xFFF) :
    exec (.ldBVx x) s =
      .next (s.advance.setMem (Memory.writeBlock s.cfg s.mem s.i.toNat (decimalDigits (s.reg x)))) := by
  have hb : inBounds s.i.toNat (decimalDigits (s.reg x)).length = true := by
    rw [inBounds_iff, decimalDigits_length]; omega
  refine perform_ok (.ldBVx x)
    (fun t => memWrite t (indexAddress t) (decimalDigits (t.reg x))) s _ (if_pos hb)

theorem exec_ldBVx_fault (x : Reg) (s : State) (h : 0xFFF < s.i.toNat + 2) :
    exec (.ldBVx x) s = .next (enterFault .addressError s.pc (encode (.ldBVx x)) s) := by
  have hb : ¬inBounds s.i.toNat (decimalDigits (s.reg x)).length = true := by
    rw [inBounds_iff, decimalDigits_length]; omega
  refine perform_error (.ldBVx x)
    (fun t => memWrite t (indexAddress t) (decimalDigits (t.reg x))) s _ (if_neg hb)

theorem exec_ldMemVx_ok (x : Reg) (s : State) (h : s.i.toNat + x.val ≤ 0xFFF) :
    exec (.ldMemVx x) s =
      .next (s.advance.setMem (Memory.writeBlock s.cfg s.mem s.i.toNat (regBlock x s))) := by
  have hb : inBounds s.i.toNat (regBlock x s).length = true := by
    rw [inBounds_iff, regBlock_length]; omega
  refine perform_ok (.ldMemVx x)
    (fun t => memWrite t (indexAddress t) (regBlock x t)) s _ (if_pos hb)

theorem exec_ldMemVx_fault (x : Reg) (s : State) (h : 0xFFF < s.i.toNat + x.val) :
    exec (.ldMemVx x) s = .next (enterFault .addressError s.pc (encode (.ldMemVx x)) s) := by
  have hb : ¬inBounds s.i.toNat (regBlock x s).length = true := by
    rw [inBounds_iff, regBlock_length]; omega
  refine perform_error (.ldMemVx x)
    (fun t => memWrite t (indexAddress t) (regBlock x t)) s _ (if_neg hb)

theorem exec_ldVxMem_ok (x : Reg) (s : State) (h : s.i.toNat + x.val ≤ 0xFFF) :
    exec (.ldVxMem x) s =
      .next (s.advance.setRegsFrom 0 (Memory.readBlock s.cfg s.mem s.i.toNat (x.val + 1))) := by
  have hb : inBounds s.i.toNat (x.val + 1) = true := by rw [inBounds_iff]; omega
  refine perform_ok (.ldVxMem x)
    (fun t => (memRead t (indexAddress t) (blockLength x)).map (fun bs => t.setRegsFrom 0 bs)) s _ (by
    show (memRead s.advance s.i.toNat (x.val + 1)).map _ = _
    rw [((memRead_cases s.advance s.i.toNat (x.val + 1)).resolve_right (by simp [hb])).2]; rfl)

theorem exec_ldVxMem_fault (x : Reg) (s : State) (h : 0xFFF < s.i.toNat + x.val) :
    exec (.ldVxMem x) s = .next (enterFault .addressError s.pc (encode (.ldVxMem x)) s) := by
  have hb : ¬inBounds s.i.toNat (x.val + 1) = true := by rw [inBounds_iff]; omega
  refine perform_error (.ldVxMem x)
    (fun t => (memRead t (indexAddress t) (blockLength x)).map (fun bs => t.setRegsFrom 0 bs)) s _ (by
    show (memRead s.advance s.i.toNat (x.val + 1)).map _ = _
    rw [((memRead_cases s.advance s.i.toNat (x.val + 1)).resolve_left (fun e => hb e.1)).2]; rfl)

/-- What DXYN draws, from the state before its Step. -/
def drawing (x y : Reg) (n : BitVec 4) (s : State) : Drawing :=
  drawAt x y s (Memory.readBlock s.cfg s.mem s.i.toNat n.toNat)

theorem exec_drw_ok (x y : Reg) (n : BitVec 4) (s : State) (h : n = 0 ∨ s.i.toNat + n.toNat ≤ 0x1000) :
    exec (.drw x y n) s =
      .next ((s.advance.setFb (drawing x y n s).fb).setFlag (drawing x y n s).collision) := by
  have hb : inBounds s.i.toNat n.toNat = true := by
    rw [inBounds_iff]; exact h.imp (fun e => by rw [e]; rfl) id
  refine perform_ok (.drw x y n)
    (fun t => (memRead t (indexAddress t) n.toNat).map
      (fun rows => (t.setFb (drawAt x y t rows).fb).setFlag (drawAt x y t rows).collision)) s _ (by
    show (memRead s.advance s.i.toNat n.toNat).map _ = _
    rw [((memRead_cases s.advance s.i.toNat n.toNat).resolve_right (by simp [hb])).2]; rfl)

theorem exec_drw_fault (x y : Reg) (n : BitVec 4) (s : State) (hn : n ≠ 0) (h : 0x1000 < s.i.toNat + n.toNat) :
    exec (.drw x y n) s = .next (enterFault .addressError s.pc (encode (.drw x y n)) s) := by
  have hb : ¬inBounds s.i.toNat n.toNat = true := by
    rw [inBounds_iff]
    rintro (e | e)
    · exact hn (BitVec.eq_of_toNat_eq (by simpa using e))
    · omega
  refine perform_error (.drw x y n)
    (fun t => (memRead t (indexAddress t) n.toNat).map
      (fun rows => (t.setFb (drawAt x y t rows).fb).setFlag (drawAt x y t rows).collision)) s _ (by
    show (memRead s.advance s.i.toNat n.toNat).map _ = _
    rw [((memRead_cases s.advance s.i.toNat n.toNat).resolve_left (fun e => hb e.1)).2]; rfl)

/-! ### The cycle and the step -/

/-- The word at PC. -/
def wordAtPc (s : State) : Word := wordOfBytes (s.byteAt s.pc.toNat) (s.byteAt (s.pc.toNat + 1))

/-- What a cycle can do. -/
theorem cycle_cases (s : State) :
    (s.run ≠ .running ∧ cycle s = .next s) ∨
      (s.run = .running ∧ 0xFFE < s.pc.toNat ∧ cycle s = .next (enterFault .addressError s.pc 0x0000 s)) ∨
      (s.run = .running ∧ s.pc.toNat ≤ 0xFFE ∧ decode (wordAtPc s) = none ∧
        cycle s = .next (unassignedOpcode (wordAtPc s) s)) ∨
      (s.run = .running ∧ s.pc.toNat ≤ 0xFFE ∧ ∃ i, decode (wordAtPc s) = some i ∧ cycle s = exec i s) := by
  by_cases hr : s.run = .running
  · rcases memRead16_cases s s.pc.toNat with ⟨hp, hf⟩ | ⟨hp, hf⟩
    · have hw : cycle s = match decode (wordAtPc s) with
          | some i => exec i s
          | none => .next (unassignedOpcode (wordAtPc s) s) := by
        unfold cycle fetch
        rw [if_pos hr, hf]
        rfl
      cases hd : decode (wordAtPc s) with
      | none => exact .inr (.inr (.inl ⟨hr, by omega, rfl, by rw [hw, hd]⟩))
      | some i => exact .inr (.inr (.inr ⟨hr, by omega, i, rfl, by rw [hw, hd]⟩))
    · exact .inr (.inl ⟨hr, by omega, by unfold cycle fetch; rw [if_pos hr, hf]⟩)
  · exact .inl ⟨hr, by unfold cycle; rw [if_neg hr]⟩

/-- A step of an accepted configuration is the next event. -/
theorem step_of_wf (s : State) (h : s.cfg.wf = true) : step s = nextEvent s := by
  unfold step; rw [if_pos h]

/-- A step with an event listed. -/
theorem step_of_pending (s : State) (e : HostEvent) (rest : List HostEvent) (h : s.cfg.wf = true)
    (hp : s.env.pending = e :: rest) : step s = applyEvent e (withPending rest s) := by
  rw [step_of_wf s h]; unfold nextEvent; rw [hp]

/-- A step with nothing listed. -/
theorem step_of_unlisted (s : State) (h : s.cfg.wf = true) (hp : s.env.pending = []) :
    step s = cycle (unlistedInputs s) := by
  rw [step_of_wf s h]; unfold nextEvent; rw [hp]

/-- What a step that answers a next state did. -/
theorem step_cases {s t : State} (h : step s = .next t) :
    s.cfg.wf = true ∧
      ((∃ e rest, s.env.pending = e :: rest ∧ applyEvent e (withPending rest s) = .next t) ∨
        (s.env.pending = [] ∧ cycle (unlistedInputs s) = .next t)) := by
  have hw : s.cfg.wf = true := by
    by_contra hne
    unfold step at h
    rw [if_neg hne] at h
    cases h
  refine ⟨hw, ?_⟩
  cases hp : s.env.pending with
  | nil => exact .inr ⟨rfl, by rw [← step_of_unlisted s hw hp]; exact h⟩
  | cons e rest => exact .inl ⟨e, rest, rfl, by rw [← step_of_pending s e rest hw hp]; exact h⟩

end Sys2Proof.Machine
end

