-- ==== Sys2Proof/Laws/Frames.lean ====
section
/-! SUPPORT. The frames of the updates that many instructions share, and what those updates write. -/

namespace Sys2Proof.Machine

/-- V[0xF] after a result with a flag. -/
theorem State.setWithFlag_flag (s : State) (x : Reg) (b : Byte) (f : Bool) :
    (s.setWithFlag x b f).reg 0xF = flagByte f := by
  unfold State.setWithFlag State.setFlag
  rw [State.setReg_reg, if_pos]; rfl

/-- V[X] after a result with a flag, X not being the flag register. -/
theorem State.setWithFlag_result (s : State) (x : Reg) (b : Byte) (f : Bool) (h : x ≠ 0xF) :
    (s.setWithFlag x b f).reg x = b := by
  unfold State.setWithFlag State.setFlag
  rw [State.setReg_reg, if_neg (show x ≠ regFlag from h), State.setReg_reg, if_pos rfl]

/-- The other registers after a result with a flag. -/
theorem State.setWithFlag_other (s : State) (x r : Reg) (b : Byte) (f : Bool) (hx : r ≠ x) (hf : r ≠ 0xF) :
    (s.setWithFlag x b f).reg r = s.reg r := by
  unfold State.setWithFlag State.setFlag
  rw [State.setReg_reg, if_neg (show r ≠ regFlag from hf), State.setReg_reg, if_neg hx]

/-- A skip is a jump over one or two words. -/
theorem State.advance_skipIf (s : State) (c : Bool) :
    s.advance.skipIf c = s.setPc (if c then s.pc + 4 else s.pc + 2) := by
  cases c
  · rfl
  · unfold State.skipIf State.advance; simp [State.setPc, BitVec.add_assoc]

/-- The frame of a register write. -/
theorem onlyRegsChange_setReg (xs : List Reg) (s : State) (x : Reg) (b : Byte) (h : x ∈ xs) :
    OnlyRegsChange xs s (s.advance.setReg x b) := by
  refine ⟨rfl, fun r hr => ?_, rfl, ⟨rfl, rfl⟩, ⟨rfl, rfl⟩, fun _ _ => rfl, fun _ => rfl, ⟨rfl, rfl, rfl⟩,
    ⟨rfl, rfl⟩, rfl, rfl, rfl⟩
  rw [State.setReg_reg, if_neg (by rintro rfl; exact hr h)]; rfl

/-- The frame of a result with a flag. -/
theorem onlyRegsChange_setWithFlag (s : State) (x : Reg) (b : Byte) (f : Bool) :
    OnlyRegsChange [x, 0xF] s (s.advance.setWithFlag x b f) := by
  refine ⟨rfl, fun r hr => ?_, rfl, ⟨rfl, rfl⟩, ⟨rfl, rfl⟩, fun _ _ => rfl, fun _ => rfl, ⟨rfl, rfl, rfl⟩,
    ⟨rfl, rfl⟩, rfl, rfl, rfl⟩
  simp only [List.mem_cons, List.not_mem_nil, or_false, not_or] at hr
  rw [State.setWithFlag_other _ _ _ _ _ hr.1 hr.2]; rfl

/-- The frame of a jump. -/
theorem onlyPcChanges_setPc (s : State) (w : Word) : OnlyPcChanges s (s.setPc w) :=
  ⟨fun _ _ => rfl, rfl, ⟨rfl, rfl⟩, ⟨rfl, rfl⟩, fun _ _ => rfl, fun _ => rfl, ⟨rfl, rfl, rfl⟩, ⟨rfl, rfl⟩, rfl,
    rfl, rfl⟩

/-- The frame of the instructions that write neither V nor control state: RUN to the environment. -/
theorem keepsControl_refl (s : State) : KeepsControl s s := ⟨⟨rfl, rfl, rfl⟩, ⟨rfl, rfl⟩, rfl, rfl, rfl⟩

/-- Fault entry halts with the instruction's own record. -/
theorem haltsUnchanged_enterFault (f : Fault) (insn : Word) (s : State) :
    HaltsUnchanged f insn s (enterFault f s.pc insn s) := rfl

end Sys2Proof.Machine
end

