-- ==== Sys2Proof/Laws/PerInstr.lean ====
section
/-! SUPPORT. The family RowMatch: every instruction's word matches the row of the opcode table that carries the
instruction's mnemonic (`30_encoding.md` R64, R72), one lemma per constructor. -/

namespace Sys2Proof.Laws

theorem formatA_and_F000 (g : BitVec 4) (nnn : BitVec 12) : formatA g nnn &&& 0xF000 = formatA g 0 := by
  have hm : (0xF000 : Word) = (0xF#4 ++ 0x000#12 : BitVec (4 + 12)) := by decide
  have hg : g &&& 0xF#4 = g := BitVec.and_allOnes
  rw [hm]
  unfold formatA
  rw [BitVec.and_append, hg, BitVec.and_zero]
  rfl

theorem formatXK_and_F000 (g : BitVec 4) (x : Reg) (nn : Byte) : formatXK g x nn &&& 0xF000 = formatXK g 0 0 := by
  have hm : (0xF000 : Word) = (0xF#4 ++ (0x0#4 ++ 0x00#8) : BitVec (4 + (4 + 8))) := by decide
  have hg : g &&& 0xF#4 = g := BitVec.and_allOnes
  rw [hm]
  unfold formatXK
  rw [BitVec.and_append, BitVec.and_append, hg, BitVec.and_zero, BitVec.and_zero]
  rfl

theorem formatXK_and_F0FF (g : BitVec 4) (x : Reg) (nn : Byte) : formatXK g x nn &&& 0xF0FF = formatXK g 0 nn := by
  have hm : (0xF0FF : Word) = (0xF#4 ++ (0x0#4 ++ 0xFF#8) : BitVec (4 + (4 + 8))) := by decide
  have hg : g &&& 0xF#4 = g := BitVec.and_allOnes
  have hn : nn &&& 0xFF#8 = nn := BitVec.and_allOnes
  rw [hm]
  unfold formatXK
  rw [BitVec.and_append, BitVec.and_append, hg, hn, BitVec.and_zero]
  rfl

theorem formatXYN_and_F00F (g : BitVec 4) (x y : Reg) (n : BitVec 4) :
    formatXYN g x y n &&& 0xF00F = formatXYN g 0 0 n := by
  have hm : (0xF00F : Word) = (0xF#4 ++ (0x0#4 ++ (0x0#4 ++ 0xF#4)) : BitVec (4 + (4 + (4 + 4)))) := by decide
  have hg : ∀ k : BitVec 4, k &&& 0xF#4 = k := fun _ => BitVec.and_allOnes
  rw [hm]
  unfold formatXYN
  rw [BitVec.and_append, BitVec.and_append, BitVec.and_append, hg, hg, BitVec.and_zero, BitVec.and_zero]
  rfl

theorem formatXYN_and_F000 (g : BitVec 4) (x y : Reg) (n : BitVec 4) :
    formatXYN g x y n &&& 0xF000 = formatXYN g 0 0 0 := by
  have hm : (0xF000 : Word) = (0xF#4 ++ (0x0#4 ++ (0x0#4 ++ 0x0#4)) : BitVec (4 + (4 + (4 + 4)))) := by decide
  have hg : g &&& 0xF#4 = g := BitVec.and_allOnes
  rw [hm]
  unfold formatXYN
  rw [BitVec.and_append, BitVec.and_append, BitVec.and_append, hg, BitVec.and_zero, BitVec.and_zero, BitVec.and_zero]
  rfl

/-- The instruction's word matches the table row with the instruction's mnemonic. -/
def RowMatch.Statement (i : Instr) : Prop :=
  ∃ row ∈ opcodeRows, row.mnemonic = i.mnemonic ∧ row.matches (encode i) = true

/-- A row of the table, its mask and its pattern settle the match. -/
theorem RowMatch.of_row (i : Instr) (row : OpcodeRow) (hr : row ∈ opcodeRows) (hm : row.mnemonic = i.mnemonic)
    (hw : encode i &&& row.mask = row.pattern) : RowMatch.Statement i :=
  ⟨row, hr, hm, by simpa [OpcodeRow.matches] using hw⟩

theorem RowMatch.cls : RowMatch.Statement .cls :=
  RowMatch.of_row _ ⟨"CLS", 0x00E0, 0xFFFF⟩ (by simp [opcodeRows, opcodeRowsLow, opcodeRowsMid, opcodeRowsHigh]) rfl (by decide)

theorem RowMatch.ret : RowMatch.Statement .ret :=
  RowMatch.of_row _ ⟨"RET", 0x00EE, 0xFFFF⟩ (by simp [opcodeRows, opcodeRowsLow, opcodeRowsMid, opcodeRowsHigh]) rfl (by decide)

theorem RowMatch.jp (nnn : BitVec 12) : RowMatch.Statement (.jp nnn) :=
  RowMatch.of_row _ ⟨"JP", 0x1000, 0xF000⟩ (by simp [opcodeRows, opcodeRowsLow, opcodeRowsMid, opcodeRowsHigh]) rfl ((formatA_and_F000 _ _).trans (by decide))

theorem RowMatch.call (nnn : BitVec 12) : RowMatch.Statement (.call nnn) :=
  RowMatch.of_row _ ⟨"CALL", 0x2000, 0xF000⟩ (by simp [opcodeRows, opcodeRowsLow, opcodeRowsMid, opcodeRowsHigh]) rfl ((formatA_and_F000 _ _).trans (by decide))

theorem RowMatch.seVxNn (x : Reg) (nn : Byte) : RowMatch.Statement (.seVxNn x nn) :=
  RowMatch.of_row _ ⟨"SE_VX_NN", 0x3000, 0xF000⟩ (by simp [opcodeRows, opcodeRowsLow, opcodeRowsMid, opcodeRowsHigh]) rfl ((formatXK_and_F000 _ _ _).trans (by decide))

theorem RowMatch.sneVxNn (x : Reg) (nn : Byte) : RowMatch.Statement (.sneVxNn x nn) :=
  RowMatch.of_row _ ⟨"SNE_VX_NN", 0x4000, 0xF000⟩ (by simp [opcodeRows, opcodeRowsLow, opcodeRowsMid, opcodeRowsHigh]) rfl ((formatXK_and_F000 _ _ _).trans (by decide))

theorem RowMatch.seVxVy (x y : Reg) : RowMatch.Statement (.seVxVy x y) :=
  RowMatch.of_row _ ⟨"SE_VX_VY", 0x5000, 0xF00F⟩ (by simp [opcodeRows, opcodeRowsLow, opcodeRowsMid, opcodeRowsHigh]) rfl ((formatXYN_and_F00F _ _ _ _).trans (by decide))

theorem RowMatch.ldVxNn (x : Reg) (nn : Byte) : RowMatch.Statement (.ldVxNn x nn) :=
  RowMatch.of_row _ ⟨"LD_VX_NN", 0x6000, 0xF000⟩ (by simp [opcodeRows, opcodeRowsLow, opcodeRowsMid, opcodeRowsHigh]) rfl ((formatXK_and_F000 _ _ _).trans (by decide))

theorem RowMatch.addVxNn (x : Reg) (nn : Byte) : RowMatch.Statement (.addVxNn x nn) :=
  RowMatch.of_row _ ⟨"ADD_VX_NN", 0x7000, 0xF000⟩ (by simp [opcodeRows, opcodeRowsLow, opcodeRowsMid, opcodeRowsHigh]) rfl ((formatXK_and_F000 _ _ _).trans (by decide))

theorem RowMatch.ldVxVy (x y : Reg) : RowMatch.Statement (.ldVxVy x y) :=
  RowMatch.of_row _ ⟨"LD_VX_VY", 0x8000, 0xF00F⟩ (by simp [opcodeRows, opcodeRowsLow, opcodeRowsMid, opcodeRowsHigh]) rfl ((formatXYN_and_F00F _ _ _ _).trans (by decide))

theorem RowMatch.or (x y : Reg) : RowMatch.Statement (.or x y) :=
  RowMatch.of_row _ ⟨"OR", 0x8001, 0xF00F⟩ (by simp [opcodeRows, opcodeRowsLow, opcodeRowsMid, opcodeRowsHigh]) rfl ((formatXYN_and_F00F _ _ _ _).trans (by decide))

theorem RowMatch.and (x y : Reg) : RowMatch.Statement (.and x y) :=
  RowMatch.of_row _ ⟨"AND", 0x8002, 0xF00F⟩ (by simp [opcodeRows, opcodeRowsLow, opcodeRowsMid, opcodeRowsHigh]) rfl ((formatXYN_and_F00F _ _ _ _).trans (by decide))

theorem RowMatch.xor (x y : Reg) : RowMatch.Statement (.xor x y) :=
  RowMatch.of_row _ ⟨"XOR", 0x8003, 0xF00F⟩ (by simp [opcodeRows, opcodeRowsLow, opcodeRowsMid, opcodeRowsHigh]) rfl ((formatXYN_and_F00F _ _ _ _).trans (by decide))

theorem RowMatch.addVxVy (x y : Reg) : RowMatch.Statement (.addVxVy x y) :=
  RowMatch.of_row _ ⟨"ADD_VX_VY", 0x8004, 0xF00F⟩ (by simp [opcodeRows, opcodeRowsLow, opcodeRowsMid, opcodeRowsHigh]) rfl ((formatXYN_and_F00F _ _ _ _).trans (by decide))

theorem RowMatch.sub (x y : Reg) : RowMatch.Statement (.sub x y) :=
  RowMatch.of_row _ ⟨"SUB", 0x8005, 0xF00F⟩ (by simp [opcodeRows, opcodeRowsLow, opcodeRowsMid, opcodeRowsHigh]) rfl ((formatXYN_and_F00F _ _ _ _).trans (by decide))

theorem RowMatch.shr (x y : Reg) : RowMatch.Statement (.shr x y) :=
  RowMatch.of_row _ ⟨"SHR", 0x8006, 0xF00F⟩ (by simp [opcodeRows, opcodeRowsLow, opcodeRowsMid, opcodeRowsHigh]) rfl ((formatXYN_and_F00F _ _ _ _).trans (by decide))

theorem RowMatch.subn (x y : Reg) : RowMatch.Statement (.subn x y) :=
  RowMatch.of_row _ ⟨"SUBN", 0x8007, 0xF00F⟩ (by simp [opcodeRows, opcodeRowsLow, opcodeRowsMid, opcodeRowsHigh]) rfl ((formatXYN_and_F00F _ _ _ _).trans (by decide))

theorem RowMatch.shl (x y : Reg) : RowMatch.Statement (.shl x y) :=
  RowMatch.of_row _ ⟨"SHL", 0x800E, 0xF00F⟩ (by simp [opcodeRows, opcodeRowsLow, opcodeRowsMid, opcodeRowsHigh]) rfl ((formatXYN_and_F00F _ _ _ _).trans (by decide))

theorem RowMatch.sneVxVy (x y : Reg) : RowMatch.Statement (.sneVxVy x y) :=
  RowMatch.of_row _ ⟨"SNE_VX_VY", 0x9000, 0xF00F⟩ (by simp [opcodeRows, opcodeRowsLow, opcodeRowsMid, opcodeRowsHigh]) rfl ((formatXYN_and_F00F _ _ _ _).trans (by decide))

theorem RowMatch.ldINnn (nnn : BitVec 12) : RowMatch.Statement (.ldINnn nnn) :=
  RowMatch.of_row _ ⟨"LD_I_NNN", 0xA000, 0xF000⟩ (by simp [opcodeRows, opcodeRowsLow, opcodeRowsMid, opcodeRowsHigh]) rfl ((formatA_and_F000 _ _).trans (by decide))

theorem RowMatch.jpV0 (nnn : BitVec 12) : RowMatch.Statement (.jpV0 nnn) :=
  RowMatch.of_row _ ⟨"JP_V0", 0xB000, 0xF000⟩ (by simp [opcodeRows, opcodeRowsLow, opcodeRowsMid, opcodeRowsHigh]) rfl ((formatA_and_F000 _ _).trans (by decide))

theorem RowMatch.rnd (x : Reg) (nn : Byte) : RowMatch.Statement (.rnd x nn) :=
  RowMatch.of_row _ ⟨"RND", 0xC000, 0xF000⟩ (by simp [opcodeRows, opcodeRowsLow, opcodeRowsMid, opcodeRowsHigh]) rfl ((formatXK_and_F000 _ _ _).trans (by decide))

theorem RowMatch.drw (x y : Reg) (n : BitVec 4) : RowMatch.Statement (.drw x y n) :=
  RowMatch.of_row _ ⟨"DRW", 0xD000, 0xF000⟩ (by simp [opcodeRows, opcodeRowsLow, opcodeRowsMid, opcodeRowsHigh]) rfl ((formatXYN_and_F000 _ _ _ _).trans (by decide))

theorem RowMatch.skp (x : Reg) : RowMatch.Statement (.skp x) :=
  RowMatch.of_row _ ⟨"SKP", 0xE09E, 0xF0FF⟩ (by simp [opcodeRows, opcodeRowsLow, opcodeRowsMid, opcodeRowsHigh]) rfl ((formatXK_and_F0FF _ _ _).trans (by decide))

theorem RowMatch.sknp (x : Reg) : RowMatch.Statement (.sknp x) :=
  RowMatch.of_row _ ⟨"SKNP", 0xE0A1, 0xF0FF⟩ (by simp [opcodeRows, opcodeRowsLow, opcodeRowsMid, opcodeRowsHigh]) rfl ((formatXK_and_F0FF _ _ _).trans (by decide))

theorem RowMatch.ldVxDt (x : Reg) : RowMatch.Statement (.ldVxDt x) :=
  RowMatch.of_row _ ⟨"LD_VX_DT", 0xF007, 0xF0FF⟩ (by simp [opcodeRows, opcodeRowsLow, opcodeRowsMid, opcodeRowsHigh]) rfl ((formatXK_and_F0FF _ _ _).trans (by decide))

theorem RowMatch.ldVxK (x : Reg) : RowMatch.Statement (.ldVxK x) :=
  RowMatch.of_row _ ⟨"LD_VX_K", 0xF00A, 0xF0FF⟩ (by simp [opcodeRows, opcodeRowsLow, opcodeRowsMid, opcodeRowsHigh]) rfl ((formatXK_and_F0FF _ _ _).trans (by decide))

theorem RowMatch.ldDtVx (x : Reg) : RowMatch.Statement (.ldDtVx x) :=
  RowMatch.of_row _ ⟨"LD_DT_VX", 0xF015, 0xF0FF⟩ (by simp [opcodeRows, opcodeRowsLow, opcodeRowsMid, opcodeRowsHigh]) rfl ((formatXK_and_F0FF _ _ _).trans (by decide))

theorem RowMatch.ldStVx (x : Reg) : RowMatch.Statement (.ldStVx x) :=
  RowMatch.of_row _ ⟨"LD_ST_VX", 0xF018, 0xF0FF⟩ (by simp [opcodeRows, opcodeRowsLow, opcodeRowsMid, opcodeRowsHigh]) rfl ((formatXK_and_F0FF _ _ _).trans (by decide))

theorem RowMatch.addIVx (x : Reg) : RowMatch.Statement (.addIVx x) :=
  RowMatch.of_row _ ⟨"ADD_I_VX", 0xF01E, 0xF0FF⟩ (by simp [opcodeRows, opcodeRowsLow, opcodeRowsMid, opcodeRowsHigh]) rfl ((formatXK_and_F0FF _ _ _).trans (by decide))

theorem RowMatch.ldFVx (x : Reg) : RowMatch.Statement (.ldFVx x) :=
  RowMatch.of_row _ ⟨"LD_F_VX", 0xF029, 0xF0FF⟩ (by simp [opcodeRows, opcodeRowsLow, opcodeRowsMid, opcodeRowsHigh]) rfl ((formatXK_and_F0FF _ _ _).trans (by decide))

theorem RowMatch.ldBVx (x : Reg) : RowMatch.Statement (.ldBVx x) :=
  RowMatch.of_row _ ⟨"LD_B_VX", 0xF033, 0xF0FF⟩ (by simp [opcodeRows, opcodeRowsLow, opcodeRowsMid, opcodeRowsHigh]) rfl ((formatXK_and_F0FF _ _ _).trans (by decide))

theorem RowMatch.ldMemVx (x : Reg) : RowMatch.Statement (.ldMemVx x) :=
  RowMatch.of_row _ ⟨"LD_MEM_VX", 0xF055, 0xF0FF⟩ (by simp [opcodeRows, opcodeRowsLow, opcodeRowsMid, opcodeRowsHigh]) rfl ((formatXK_and_F0FF _ _ _).trans (by decide))

theorem RowMatch.ldVxMem (x : Reg) : RowMatch.Statement (.ldVxMem x) :=
  RowMatch.of_row _ ⟨"LD_VX_MEM", 0xF065, 0xF0FF⟩ (by simp [opcodeRows, opcodeRowsLow, opcodeRowsMid, opcodeRowsHigh]) rfl ((formatXK_and_F0FF _ _ _).trans (by decide))

end Sys2Proof.Laws
end

