-- ==== Sys2Proof/Laws/Raised.lean ====
section
/-! SUPPORT. Which fault an instruction raises, and what every instruction leaves alone when it completes: the case
analysis over all instructions is made here once. -/

namespace Sys2Proof.Machine

/-- The fault that an instruction raises in a state, if any. -/
def raised : Instr → State → Option Fault
  | .ret, s => if s.sp = 0 then some .stackUnderflow else none
  | .call _, s => if s.sp = s.cfg.stackDepth then some .stackOverflow else none
  | .drw _ _ n, s => if n = 0 ∨ s.i.toNat + n.toNat ≤ 0x1000 then none else some .addressError
  | .ldBVx _, s => if s.i.toNat + 2 ≤ 0xFFF then none else some .addressError
  | .ldMemVx x, s | .ldVxMem x, s => if s.i.toNat + x.val ≤ 0xFFF then none else some .addressError
  | .cls, _ | .jp _, _ | .seVxNn _ _, _ | .sneVxNn _ _, _ | .seVxVy _ _, _ | .ldVxNn _ _, _ | .addVxNn _ _, _
  | .ldVxVy _ _, _ | .or _ _, _ | .and _ _, _ | .xor _ _, _ | .addVxVy _ _, _ | .sub _ _, _ | .shr _ _, _
  | .subn _ _, _ | .shl _ _, _ | .sneVxVy _ _, _ | .ldINnn _, _ | .jpV0 _, _ | .rnd _ _, _ | .skp _, _
  | .sknp _, _ | .ldVxDt _, _ | .ldVxK _, _ | .ldDtVx _, _ | .ldStVx _, _ | .addIVx _, _ | .ldFVx _, _ => none

/-- Only the six instructions of R177 raise. -/
theorem mayFault_of_raised (i : Instr) (s : State) (f : Fault) (h : raised i s = some f) : MayFault i := by
  cases i <;> simp only [raised] at h <;> first | cases h | simp [MayFault]

/-- What no completed instruction changes; RUN is kept but for FX0A. -/
structure Completed (i : Instr) (s t : State) : Prop where
  fault : t.fault = s.fault
  unimpl : t.unimpl = s.unimpl
  straps : t.straps = s.straps
  cfg : t.cfg = s.cfg
  env : t.env = s.env
  run : t.run = s.run ∨ (t.run = .awaitingKey ∧ ∃ x, i = .ldVxK x)

/-- Every instruction that raises enters its fault. -/
theorem exec_raised (i : Instr) (s : State) (f : Fault) (h : raised i s = some f) :
    exec i s = .next (enterFault f s.pc (encode i) s) := by
  cases i
  case ret =>
    simp only [raised] at h; split at h
    · cases h; exact exec_ret_fault s ‹_›
    · cases h
  case call nnn =>
    simp only [raised] at h; split at h
    · cases h; exact exec_call_fault nnn s ‹_›
    · cases h
  case drw x y n =>
    simp only [raised] at h; split at h
    · cases h
    · rename_i hn
      cases h; exact exec_drw_fault x y n s (fun e => hn (.inl e)) (by omega)
  case ldBVx x =>
    simp only [raised] at h; split at h
    · cases h
    · cases h; exact exec_ldBVx_fault x s (by omega)
  case ldMemVx x =>
    simp only [raised] at h; split at h
    · cases h
    · cases h; exact exec_ldMemVx_fault x s (by omega)
  case ldVxMem x =>
    simp only [raised] at h; split at h
    · cases h
    · cases h; exact exec_ldVxMem_fault x s (by omega)
  all_goals cases h

/-- Every instruction that does not raise completes. -/
theorem exec_completes (i : Instr) (s : State) (h : raised i s = none) :
    ∃ t, exec i s = .next t ∧ Completed i s t := by
  cases i
  case ret =>
    simp only [raised] at h; split at h
    · cases h
    · exact ⟨_, exec_ret_ok s ‹_›, rfl, rfl, rfl, rfl, rfl, .inl rfl⟩
  case call nnn =>
    simp only [raised] at h; split at h
    · cases h
    · exact ⟨_, exec_call_ok nnn s ‹_›, rfl, rfl, rfl, rfl, rfl, .inl rfl⟩
  case drw x y n =>
    simp only [raised] at h; split at h
    · exact ⟨_, exec_drw_ok x y n s ‹_›, rfl, rfl, rfl, rfl, rfl, .inl rfl⟩
    · cases h
  case ldBVx x =>
    simp only [raised] at h; split at h
    · exact ⟨_, exec_ldBVx_ok x s ‹_›, rfl, rfl, rfl, rfl, rfl, .inl rfl⟩
    · cases h
  case ldMemVx x =>
    simp only [raised] at h; split at h
    · exact ⟨_, exec_ldMemVx_ok x s ‹_›, rfl, rfl, rfl, rfl, rfl, .inl rfl⟩
    · cases h
  case ldVxMem x =>
    simp only [raised] at h; split at h
    · exact ⟨_, exec_ldVxMem_ok x s ‹_›, by simp, by simp, by simp, by simp, by simp, .inl (by simp)⟩
    · cases h
  case ldVxK x => exact ⟨_, exec_ldVxK x s, rfl, rfl, rfl, rfl, rfl, .inr ⟨rfl, x, rfl⟩⟩
  case seVxNn x nn => exact ⟨_, exec_seVxNn x nn s, by simp, by simp, by simp, by simp, by simp, .inl (by simp)⟩
  case sneVxNn x nn => exact ⟨_, exec_sneVxNn x nn s, by simp, by simp, by simp, by simp, by simp, .inl (by simp)⟩
  case seVxVy x y => exact ⟨_, exec_seVxVy x y s, by simp, by simp, by simp, by simp, by simp, .inl (by simp)⟩
  case sneVxVy x y => exact ⟨_, exec_sneVxVy x y s, by simp, by simp, by simp, by simp, by simp, .inl (by simp)⟩
  case skp x => exact ⟨_, exec_skp x s, by simp, by simp, by simp, by simp, by simp, .inl (by simp)⟩
  case sknp x => exact ⟨_, exec_sknp x s, by simp, by simp, by simp, by simp, by simp, .inl (by simp)⟩
  all_goals exact ⟨_, rfl, rfl, rfl, rfl, rfl, rfl, .inl rfl⟩

/-- What an instruction can do: enter the fault it raises, or complete. -/
theorem exec_cases {i : Instr} {s t : State} (h : exec i s = .next t) :
    (∃ f, raised i s = some f ∧ t = enterFault f s.pc (encode i) s) ∨ (raised i s = none ∧ Completed i s t) := by
  cases hr : raised i s with
  | some f =>
    rw [exec_raised i s f hr] at h
    cases h
    exact .inl ⟨f, rfl, rfl⟩
  | none =>
    obtain ⟨u, hu, hc⟩ := exec_completes i s hr
    rw [hu] at h
    cases h
    exact .inr ⟨rfl, hc⟩

end Sys2Proof.Machine
end

