-- ==== Sys2Proof/Tests/Slice0.lean ====
section
/-! SUPPORT. Tests. Expected results come from `spec/95_test_vectors.md`; "V-…" names the vector. Then, for each
statement with hypotheses, a concrete input that meets them. -/

set_option maxRecDepth 8000

namespace Sys2Proof.Tests

open Sys2Proof Sys2Proof.Machine

/-! ### Helpers -/

/-- The state after reset with some V registers set. -/
def withRegs (l : List (Reg × Byte)) : State := l.foldl (fun s p => s.setReg p.1 p.2) State.reset

/-- A state with some bytes of memory set. -/
def State.poke (s : State) (a : Nat) (bs : List Byte) : State := s.setMem (Memory.writeBlock s.cfg s.mem a bs)

/-- What a reader reads after one step that fetches the word `w` at PC. -/
def after {α : Type} (w : Nat) (s : State) (f : State → α) : Option α :=
  match step (s.withFetchWord 16 w) with
  | .next t => some (f t)
  | _ => none

/-- What a reader reads after one event. -/
def afterEvent {α : Type} (e : HostEvent) (s : State) (f : State → α) : Option α :=
  match applyEvent e s with
  | .next t => some (f t)
  | _ => none

/-- V[x] and V[0xF]. -/
def regAndFlag (x : Reg) (s : State) : Byte × Byte := (s.reg x, s.reg 0xF)

/-- RUN, FAULT_CODE, FAULT_PC, FAULT_INSN and PC. -/
def faultView (s : State) : RunState × BitVec 3 × Word × Word × Word :=
  (s.run, s.fault.code, s.fault.pc, s.fault.insn, s.pc)

/-- The x coordinates of the set pixels of a row. -/
def litColumns (y : Fin 32) (s : State) : List Nat :=
  (List.range 64).filter (fun x => pixel s.fb (Fin.ofNat 64 x) y)

/-- The environment with a key vector and a random byte. -/
def inputs (keys : Word) (rnd : Byte) (s : State) : State := s.setEnv { s.env with keys := keys, rnd := rnd }

/-! ### Well-formedness: what is refused (`00_scope.md` R5, `93_implementation_defined.md` U4 to U6) -/

/-- U4: the font must end at or below 0x200; 0x1B0 is the last base that fits. -/
theorem test_wf_fontBase :
    Config.wf { Config.standard with fontBase := 0x1B0 } = true ∧
      Config.wf { Config.standard with fontBase := 0x1B1 } = false := by decide

/-- U5: FONT is 80 bytes. -/
theorem test_wf_fontLength : Config.wf { Config.standard with font := standardFont.take 79 } = false := by decide

/-- U5: glyph 0 is F0 90 90 90 F0. -/
theorem test_wf_glyphZero :
    Config.wf { Config.standard with font := 0x00 :: standardFont.drop 1 } = false := by decide

/-- U6: STACK_DEPTH is at least 1. -/
theorem test_wf_stackDepth :
    Config.wf { Config.standard with stackDepth := 1 } = true ∧
      Config.wf { Config.standard with stackDepth := 0 } = false := by decide

/-- A configuration that is not accepted is refused, by name. -/
theorem test_wf_step_refuses :
    step { State.reset with cfg := { Config.standard with stackDepth := 0 } } =
      .refused .configurationNotAccepted := rfl

/-- The operand types admit exactly the ranges of R63: no instruction is ill-formed. -/
theorem test_wf_instr : Instr.wf (.drw 15 15 0xF) = true ∧ Instr.wf (.jp 0xFFF) = true ∧
    Instr.wf (.ldVxNn 0 0xFF) = true := by decide

/-! ### Decoding: words written out from the patterns of `30_encoding.md` R64 -/

/-- The bits of a field, most significant first, as a number: words below are written bit by bit. -/
def bits (l : List Nat) : Word := BitVec.ofNat 16 (l.foldl (fun n b => 2 * n + b) 0)

/-- G = 0 and 1: 00E0, 00EE, and 1NNN with NNN = 0xABC. -/
theorem test_decode_group0_1 :
    decode (bits [0,0,0,0, 0,0,0,0, 1,1,1,0, 0,0,0,0]) = some .cls ∧
      decode (bits [0,0,0,0, 0,0,0,0, 1,1,1,0, 1,1,1,0]) = some .ret ∧
      decode (bits [0,0,0,1, 1,0,1,0, 1,0,1,1, 1,1,0,0]) = some (.jp 0xABC) := by decide

/-- G = 2 to 5: 2NNN, 3XNN, 4XNN, 5XY0. -/
theorem test_decode_group2_5 :
    decode (bits [0,0,1,0, 0,0,1,1, 0,0,0,0, 0,0,0,1]) = some (.call 0x301) ∧
      decode (bits [0,0,1,1, 0,0,1,1, 0,1,0,0, 0,0,1,0]) = some (.seVxNn 3 0x42) ∧
      decode (bits [0,1,0,0, 1,1,0,0, 1,0,0,0, 0,0,0,1]) = some (.sneVxNn 0xC 0x81) ∧
      decode (bits [0,1,0,1, 0,0,0,1, 0,0,1,0, 0,0,0,0]) = some (.seVxVy 1 2) := by decide

/-- G = 6, 7, 9: 6XNN, 7XNN, 9XY0. -/
theorem test_decode_group6_7_9 :
    decode (bits [0,1,1,0, 1,0,1,0, 0,1,1,1, 1,1,1,1]) = some (.ldVxNn 0xA 0x7F) ∧
      decode (bits [0,1,1,1, 1,1,1,1, 0,0,0,0, 0,0,1,1]) = some (.addVxNn 0xF 0x03) ∧
      decode (bits [1,0,0,1, 1,0,1,0, 1,0,1,1, 0,0,0,0]) = some (.sneVxVy 0xA 0xB) := by decide

/-- G = 8, X = 1, Y = 2: the nine rows. -/
theorem test_decode_group8 :
    decode 0x8120 = some (.ldVxVy 1 2) ∧ decode 0x8121 = some (.or 1 2) ∧ decode 0x8122 = some (.and 1 2) ∧
      decode 0x8123 = some (.xor 1 2) ∧ decode 0x8124 = some (.addVxVy 1 2) ∧ decode 0x8125 = some (.sub 1 2) ∧
      decode 0x8126 = some (.shr 1 2) ∧ decode 0x8127 = some (.subn 1 2) ∧
      decode (bits [1,0,0,0, 0,0,0,1, 0,0,1,0, 1,1,1,0]) = some (.shl 1 2) := by decide

/-- G = A to E: ANNN, BNNN, CXNN, DXYN, EX9E, EXA1. -/
theorem test_decode_groupA_E :
    decode (bits [1,0,1,0, 0,0,1,0, 1,1,1,1, 0,0,0,0]) = some (.ldINnn 0x2F0) ∧
      decode (bits [1,0,1,1, 0,0,1,1, 0,0,0,0, 0,0,0,1]) = some (.jpV0 0x301) ∧
      decode (bits [1,1,0,0, 0,0,1,1, 1,0,1,0, 0,1,0,1]) = some (.rnd 3 0xA5) ∧
      decode (bits [1,1,0,1, 0,0,0,1, 0,0,1,0, 1,0,1,0]) = some (.drw 1 2 0xA) ∧
      decode (bits [1,1,1,0, 0,1,0,1, 1,0,0,1, 1,1,1,0]) = some (.skp 5) ∧
      decode (bits [1,1,1,0, 1,1,1,1, 1,0,1,0, 0,0,0,1]) = some (.sknp 0xF) := by decide

/-- G = F: the nine rows. -/
theorem test_decode_groupF :
    decode 0xF107 = some (.ldVxDt 1) ∧ decode 0xF20A = some (.ldVxK 2) ∧ decode 0xF315 = some (.ldDtVx 3) ∧
      decode 0xF418 = some (.ldStVx 4) ∧ decode 0xF51E = some (.addIVx 5) ∧ decode 0xF629 = some (.ldFVx 6) ∧
      decode 0xF733 = some (.ldBVx 7) ∧ decode 0xF855 = some (.ldMemVx 8) ∧
      decode (bits [1,1,1,1, 1,1,1,1, 0,1,1,0, 0,1,0,1]) = some (.ldVxMem 0xF) := by decide

/-- The unassigned words of section 2.1. -/
theorem test_decode_unassigned :
    [0x0000, 0x00E1, 0x00EF, 0x00FE, 0x0123, 0x0FFF, 0x01E0, 0x5121, 0x512F, 0x9AB1, 0x8128, 0x812D, 0x812F,
      0x8FFF, 0xE000, 0xE09F, 0xE1A0, 0xEFFF, 0xF000, 0xF001, 0xF0FF, 0xF075, 0xF030, 0xF066, 0xFF66].all
        (fun w => decode w == none) = true := by decide

/-- Bytes, high byte first: A2 F0 is 0xA2F0; one byte is too short; 51 21 is rejected by its word. -/
theorem test_decode_bytes :
    decodeBytes [0xA2, 0xF0, 0x12] = .ok (.ldINnn 0x2F0, [0x12]) ∧ decodeBytes [0xA2] = .error .tooShort ∧
      decodeBytes [0x51, 0x21] = .error (.unassigned 0x5121) := by decide

/-- The host's entry: the table's numbering has bit 0 as the word's least significant bit. -/
theorem test_decode_tableWord :
    decodeTableWord 16 0x8F14 = some (.addVxVy 0xF 1) ∧ decodeTableWord 16 0x0000 = none := by decide

/-! ### Reset and the host's interface -/

/-- `State.reset` is Reset with an empty `rom` and the default straps (`10_state.md` R34). -/
theorem test_reset_is_init : initState Config.standard [] Straps.standard Env.initial = State.reset := by decide

/-- V-F6: memory after Reset(rom = 12 00). -/
theorem test_reset_memory :
    afterEvent (.reset [0x12, 0x00] Straps.standard) State.reset
      (fun t => [0x04F, 0x050, 0x051, 0x054, 0x09B, 0x09C, 0x09F, 0x0A0, 0x200, 0x201, 0x202, 0xFFF].map t.byteAt)
      = some [0x00, 0xF0, 0x90, 0xF0, 0xF0, 0x80, 0x80, 0x00, 0x12, 0x00, 0x00, 0x00] := by decide

/-- V-F7, V-F8: `rom_loaded` of a 4000-byte image, of 2 bytes and of none. -/
theorem test_reset_romLoaded :
    romLoaded Config.standard (List.replicate 4000 0xAA) = 3584 ∧ romLoaded Config.standard [0x12, 0x00] = 2 ∧
      romLoaded Config.standard [] = 0 :=
  ⟨by unfold romLoaded Memory.load; simp only [List.length_take, List.length_replicate]; rfl, rfl, rfl⟩

/-- A word placed after reset is what the next step runs (log 8). -/
theorem test_withFetchWord :
    fetch (State.reset.withFetchWord 16 0x6A7F) = .ok 0x6A7F ∧
      after 0x6A7F State.reset (fun t => (t.reg 0xA, t.pc, t.env.pending)) = some (0x7F, 0x0202, []) := by
  decide

/-! ### Control flow (section 2.2) -/

/-- V-C1, V-C12, V-C13. -/
theorem test_jp : [0x1ABC, 0x1201, 0x1FFF].map (fun w => after w State.reset State.pc) =
    [some 0x0ABC, some 0x0201, some 0x0FFF] := by decide

/-- V-C2 and V-C16. -/
theorem test_call :
    after 0x2300 State.reset (fun t => (t.stack[0]?, t.sp, t.pc)) = some (some 0x0202, 1, 0x0300) ∧
      after 0x2300 (State.reset.setPc 0x0FFE) (fun t => (t.stack[0]?, t.sp, t.pc)) =
        some (some 0x1000, 1, 0x0300) := by decide

/-- V-C4: the stack is full. -/
theorem test_call_overflow :
    after 0x2300 (State.reset.setStack (List.replicate 16 0x0202) 16)
      (fun t => (faultView t, t.sp)) = some ((.halted, 2, 0x0200, 0x2300, 0x0200), 16) := by decide

/-- V-C3 and V-C5. -/
theorem test_ret :
    after 0x00EE ((State.reset.setStack (0x0202 :: List.replicate 15 0) 1).setPc 0x0300)
        (fun t => (t.pc, t.sp, t.stack[0]?)) = some (0x0202, 0, some 0x0202) ∧
      after 0x00EE State.reset (fun t => (faultView t, t.sp)) =
        some ((.halted, 3, 0x0200, 0x00EE, 0x0200), 0) := by decide

/-- V-C6, V-C17. -/
theorem test_seVxNn :
    after 0x3342 (withRegs [(3, 0x42)]) State.pc = some 0x0204 ∧
      after 0x3343 (withRegs [(3, 0x42)]) State.pc = some 0x0202 ∧
      after 0x3F01 (withRegs [(0xF, 0x01)]) State.pc = some 0x0204 := by decide

/-- V-C7. -/
theorem test_sneVxNn :
    after 0x4342 (withRegs [(3, 0x42)]) State.pc = some 0x0202 ∧
      after 0x4343 (withRegs [(3, 0x42)]) State.pc = some 0x0204 := by decide

/-- V-C8, V-C10. -/
theorem test_seVxVy :
    after 0x5120 (withRegs [(1, 7), (2, 7)]) State.pc = some 0x0204 ∧
      after 0x5120 (withRegs [(1, 7), (2, 8)]) State.pc = some 0x0202 ∧
      after 0x5110 (withRegs [(1, 9)]) State.pc = some 0x0204 := by decide

/-- V-C9, V-C10. -/
theorem test_sneVxVy :
    after 0x9120 (withRegs [(1, 7), (2, 7)]) State.pc = some 0x0202 ∧
      after 0x9120 (withRegs [(1, 7), (2, 8)]) State.pc = some 0x0204 ∧
      after 0x9110 (withRegs [(1, 9)]) State.pc = some 0x0202 := by decide

/-- V-C11. -/
theorem test_jpV0 :
    after 0xB300 (withRegs [(0, 0x04)]) State.pc = some 0x0304 ∧
      after 0xBFFF (withRegs [(0, 0xFF)]) State.pc = some 0x10FE := by decide

/-- V-C11, V-C13, V-C14: a fetch above memory. -/
theorem test_fetch_fault :
    afterEvent (.step 0 0) (State.reset.setPc 0x10FE) faultView = some (.halted, 1, 0x10FE, 0x0000, 0x10FE) ∧
      afterEvent (.step 0 0) (State.reset.setPc 0x0FFF) faultView = some (.halted, 1, 0x0FFF, 0x0000, 0x0FFF) ∧
      after 0x6007 (State.reset.setPc 0x0FFE) State.pc = some 0x1000 := by decide

/-! ### Arithmetic and logic (section 2.3) -/

/-- V-A1, V-A2. -/
theorem test_ldVxNn :
    after 0x6A7F State.reset (State.reg · 0xA) = some 0x7F ∧
      after 0x6F01 State.reset (State.reg · 0xF) = some 0x01 := by decide

/-- V-A3, V-A4. -/
theorem test_addVxNn :
    after 0x7101 (withRegs [(1, 0xFF)]) (regAndFlag 1) = some (0x00, 0x00) ∧
      after 0x7F03 (withRegs [(0xF, 0xFE)]) (State.reg · 0xF) = some 0x01 := by decide

/-- V-A5. -/
theorem test_ldVxVy : after 0x8120 (withRegs [(2, 0x33)]) (State.reg · 1) = some 0x33 := by decide

/-- V-A6. -/
theorem test_or :
    after 0x8121 (withRegs [(1, 0xF0), (2, 0x0F), (0xF, 1)]) (regAndFlag 1) = some (0xFF, 0x01) := by decide

/-- V-A7. -/
theorem test_and : after 0x8122 (withRegs [(1, 0xF0), (2, 0x0F)]) (State.reg · 1) = some 0x00 := by decide

/-- V-A8, V-A9. -/
theorem test_xor :
    after 0x8123 (withRegs [(1, 0xFF), (2, 0x0F)]) (State.reg · 1) = some 0xF0 ∧
      after 0x8113 (withRegs [(1, 0x5A)]) (State.reg · 1) = some 0x00 := by decide

/-- V-A10, V-A12, V-A13. -/
theorem test_addVxVy :
    after 0x8124 (withRegs [(1, 0x0A), (2, 0xFA)]) (regAndFlag 1) = some (0x04, 1) ∧
      after 0x8124 (withRegs [(1, 0xF0), (2, 0x0F)]) (regAndFlag 1) = some (0xFF, 0) ∧
      after 0x8124 (withRegs [(1, 0xFF), (2, 0x01)]) (regAndFlag 1) = some (0x00, 1) := by decide

/-- V-A14, V-A15, V-A16: the flag register as an operand. -/
theorem test_addVxVy_flag :
    after 0x8F14 (withRegs [(0xF, 0x0A), (1, 0xFA)]) (State.reg · 0xF) = some 0x01 ∧
      after 0x8F14 (withRegs [(0xF, 0x01), (1, 0x01)]) (State.reg · 0xF) = some 0x00 ∧
      after 0x81F4 (withRegs [(1, 0x0A), (0xF, 0xFA)]) (regAndFlag 1) = some (0x04, 1) := by decide

/-- V-A19, V-A20, V-A21. -/
theorem test_sub :
    after 0x8125 (withRegs [(1, 5), (2, 3)]) (regAndFlag 1) = some (0x02, 1) ∧
      after 0x8125 (withRegs [(1, 3), (2, 5)]) (regAndFlag 1) = some (0xFE, 0) ∧
      after 0x8125 (withRegs [(1, 7), (2, 7)]) (regAndFlag 1) = some (0x00, 1) := by decide

/-- V-A22, V-A23. -/
theorem test_sub_flag :
    after 0x8F15 (withRegs [(0xF, 3), (1, 5)]) (State.reg · 0xF) = some 0 ∧
      after 0x81F5 (withRegs [(1, 5), (0xF, 3)]) (regAndFlag 1) = some (0x02, 1) := by decide

/-- V-A25, V-A26, V-A27. -/
theorem test_subn :
    after 0x8127 (withRegs [(1, 3), (2, 5)]) (regAndFlag 1) = some (0x02, 1) ∧
      after 0x8127 (withRegs [(1, 5), (2, 3)]) (regAndFlag 1) = some (0xFE, 0) ∧
      after 0x8127 (withRegs [(1, 7), (2, 7)]) (regAndFlag 1) = some (0x00, 1) := by decide

/-- V-A29, V-A30, V-A32. -/
theorem test_shr :
    after 0x8126 (withRegs [(1, 0x05)]) (regAndFlag 1) = some (0x02, 1) ∧
      after 0x8126 (withRegs [(1, 0x04), (0xF, 1)]) (regAndFlag 1) = some (0x02, 0) ∧
      after 0x8F06 (withRegs [(0xF, 0x02)]) (State.reg · 0xF) = some 0 := by decide

/-- V-A33, V-A34: the strap. -/
theorem test_shr_strap :
    after 0x8126 (withRegs [(1, 0xAA), (2, 0x05)]) (regAndFlag 1) = some (0x55, 0) ∧
      after 0x8126 { withRegs [(1, 0xAA), (2, 0x05)] with straps := { shiftSrcVy := true, unimplHalt := true } }
        (regAndFlag 1) = some (0x02, 1) := by decide

/-- V-A36, V-A37, V-A39. -/
theorem test_shl :
    after 0x812E (withRegs [(1, 0x81)]) (regAndFlag 1) = some (0x02, 1) ∧
      after 0x812E (withRegs [(1, 0x40), (0xF, 1)]) (regAndFlag 1) = some (0x80, 0) ∧
      after 0x8F0E (withRegs [(0xF, 0x80)]) (State.reg · 0xF) = some 1 := by decide

/-- V-A40, V-A41: the strap. -/
theorem test_shl_strap :
    after 0x812E { withRegs [(2, 0xC1)] with straps := { shiftSrcVy := true, unimplHalt := true } }
        (fun t => (regAndFlag 1 t, t.reg 2)) = some ((0x82, 1), 0xC1) ∧
      after 0x812E (withRegs [(2, 0xC1)]) (regAndFlag 1) = some (0x00, 0) := by decide

/-- V-A43, V-A45. -/
theorem test_rnd :
    after 0xC30F (inputs 0 0xB7 State.reset) (State.reg · 3) = some 0x07 ∧
      after 0xC3A5 (inputs 0 0xFF State.reset) (State.reg · 3) = some 0xA5 := by decide

/-! ### Index register and memory (section 2.4) -/

/-- V-M1. -/
theorem test_ldINnn : after 0xAFFF State.reset State.i = some 0x0FFF := by decide

/-- V-M2, V-M3, V-M4. -/
theorem test_addIVx :
    after 0xF21E ((withRegs [(2, 0x20)]).setI 0x100) State.i = some 0x0120 ∧
      after 0xF21E ((withRegs [(2, 0x05)]).setI 0xFFE) (fun t => (t.i, t.reg 0xF)) = some (0x0003, 0) ∧
      after 0xF21E ((withRegs [(2, 0x01)]).setI 0xFFF) State.i = some 0x0000 := by decide

/-- V-M5, V-M6. -/
theorem test_ldFVx :
    after 0xF129 (withRegs [(1, 0x0A)]) State.i = some 0x0082 ∧
      after 0xF129 (withRegs [(1, 0xFF)]) State.i = some 0x054B := by decide

/-- V-M7, V-M9. -/
theorem test_ldBVx :
    after 0xF133 ((withRegs [(1, 0x9C)]).setI 0x300) (fun t => [0x300, 0x301, 0x302].map t.byteAt) =
        some [1, 5, 6] ∧
      after 0xF133 ((withRegs [(1, 0x7B)]).setI 0xFFD) (fun t => [0xFFD, 0xFFE, 0xFFF].map t.byteAt) =
        some [1, 2, 3] := by decide

/-- V-M10. -/
theorem test_ldBVx_fault :
    after 0xF133 ((withRegs [(1, 0x7B)]).setI 0xFFE) (fun t => (faultView t, t.byteAt 0xFFE)) =
      some ((.halted, 1, 0x0200, 0xF133, 0x0200), 0) := by decide

/-- V-M11. -/
theorem test_ldMemVx :
    after 0xF255 ((withRegs [(0, 0xAB), (1, 0xCD), (2, 0xEF), (3, 0x99)]).setI 0x300)
      (fun t => ([0x300, 0x301, 0x302, 0x303].map t.byteAt, t.i)) = some ([0xAB, 0xCD, 0xEF, 0x00], 0x0300) := by
  decide

/-- V-M13, V-M14. -/
theorem test_ldMemVx_edge :
    after 0xFF55 (State.reset.setI 0xFF1) faultView = some (.halted, 1, 0x0200, 0xFF55, 0x0200) ∧
      after 0xF055 ((withRegs [(0, 0x11)]).setI 0xFFF) (fun t => t.byteAt 0xFFF) = some 0x11 ∧
      after 0xF155 ((withRegs [(0, 0x11)]).setI 0xFFF) (fun t => t.byteAt 0xFFF) = some 0x00 := by decide

/-- V-M15, V-M18. -/
theorem test_ldVxMem :
    after 0xF265 ((State.poke (withRegs [(3, 0x99)]) 0x300 [0x11, 0x22, 0x33]).setI 0x300)
        (fun t => ([0, 1, 2, 3].map t.reg, t.i)) = some ([0x11, 0x22, 0x33, 0x99], 0x0300) ∧
      after 0xF465 (State.reset.setI 0x050) (fun t => [0, 1, 2, 3, 4].map t.reg) =
        some [0xF0, 0x90, 0x90, 0x90, 0xF0] := by decide

/-- V-M17. -/
theorem test_ldVxMem_fault :
    after 0xFF65 ((withRegs [(0, 0x77), (15, 0x77)]).setI 0xFF1) (fun t => (faultView t, t.reg 0, t.reg 15)) =
      some ((.halted, 1, 0x0200, 0xFF65, 0x0200), 0x77, 0x77) := by decide

/-! ### Display (section 2.5) -/

/-- V-D0. -/
theorem test_cls :
    after 0x00E0 ((withRegs [(0xF, 1)]).setFb (flipPixel blankScreen 5 6))
      (fun t => (pixel t.fb 5 6, t.reg 0xF)) = some (false, 1) := by decide

/-- V-D1 (two of the rows) and V-D3 (a draw that wraps in both coordinates). -/
theorem test_drw :
    after 0xD005 (State.reset.setI 0x050) (fun t => (litColumns 0 t, litColumns 1 t, t.reg 0xF)) =
        some ([0, 1, 2, 3], [0, 3], 0) ∧
      after 0xD122 ((State.poke (withRegs [(1, 0x43), (2, 0xFF)]) 0x300 [0x80, 0x80]).setI 0x300)
        (fun t => (litColumns 31 t, litColumns 0 t, t.reg 0xF)) = some ([3], [3], 0) := by decide

/-- V-D8 (a collision in row 0 only) and V-D10 (the sprite leaves memory). -/
theorem test_drw_edge :
    after 0xD122 (((State.poke State.reset 0x300 [0x80, 0x40]).setI 0x300).setFb (flipPixel blankScreen 0 0))
        (fun t => (litColumns 0 t, litColumns 1 t, t.reg 0xF)) = some ([], [1], 1) ∧
      after 0xD123 ((State.poke State.reset 0xFFE [0xFF]).setI 0xFFE)
        (fun t => (faultView t, litColumns 0 t)) = some ((.halted, 1, 0x0200, 0xD123, 0x0200), []) := by decide

/-! ### Keypad and timers (section 2.6) -/

/-- V-K1 to V-K4. -/
theorem test_skp :
    after 0xE59E (inputs 0x0400 0 (withRegs [(5, 0x1A)])) State.pc = some 0x0204 ∧
      after 0xE59E (inputs 0xFBFF 0 (withRegs [(5, 0x0A)])) State.pc = some 0x0202 := by decide

/-- V-K1, V-K2. -/
theorem test_sknp :
    after 0xE5A1 (inputs 0x0400 0 (withRegs [(5, 0x0A)])) State.pc = some 0x0202 ∧
      after 0xE5A1 (inputs 0x0000 0 (withRegs [(5, 0x0A)])) State.pc = some 0x0204 := by decide

/-- V-K5. -/
theorem test_ldVxK :
    after 0xF30A (inputs 0x0001 0 State.reset) (fun t => (t.run, t.waitX, t.keyPrev, t.pc, t.reg 3)) =
      some (.awaitingKey, 3, 0x0001, 0x0202, 0) := by decide

/-- The core as V-K5 leaves it. -/
def waiting : State := ((State.reset.setWaitX 3).setKeyPrev 0x0001).setRun .awaitingKey

/-- V-K7, V-K8, V-K10, and V-K9 from the state of V-K8. -/
theorem test_keySample :
    keySample 0x0001 waiting = waiting ∧ keySample 0x0000 waiting = waiting.setKeyPrev 0 ∧
      ((keySample 0x0003 waiting).reg 3, (keySample 0x0003 waiting).run) = (0x01, .running) ∧
      ((keySample 0x0480 (waiting.setKeyPrev 0)).reg 3, (keySample 0x0480 (waiting.setKeyPrev 0)).keyPrev) =
        (0x07, 0x0480) := by decide

/-- V-K6, V-K11. -/
theorem test_no_effect :
    afterEvent (.step 0xFFFF 0xFF) (inputs 0xFFFF 0xFF waiting) id = some (inputs 0xFFFF 0xFF waiting) ∧
      keySample 0xFFFF State.reset = State.reset := by decide

/-- V-T1. -/
theorem test_ldVxDt : after 0xF107 (State.reset.setDt 0x2A) (fun t => (t.reg 1, t.dt)) = some (0x2A, 0x2A) := by
  decide

/-- V-T2, V-T6. -/
theorem test_ldDtVx :
    after 0xF115 (withRegs [(1, 0x3C)]) State.dt = some 0x3C ∧
      after 0xF115 (State.reset.setDt 9) State.dt = some 0 := by decide

/-- V-T2. -/
theorem test_ldStVx :
    after 0xF118 (withRegs [(1, 0x3C)]) (fun t => (t.st, tone t)) = some (0x3C, true) := by decide

/-- V-T3, V-T4, V-T5. -/
theorem test_tick :
    ((tick (State.reset.setDt 2)).dt, (tick (tick (State.reset.setDt 2))).dt,
        (tick (tick (tick (State.reset.setDt 2)))).dt) = (1, 0, 0) ∧
      ((tick ((State.reset.setDt 0xFF).setSt 1)).dt, tone (tick ((State.reset.setDt 0xFF).setSt 1))) =
        (0xFE, false) ∧
      (tick ((State.reset.setDt 5).setRun .halted)).dt = 4 ∧ (tick (waiting.setDt 5)).dt = 4 := by decide

/-! ### Faults, unassigned words, Stop (section 2.7) -/

/-- V-F1. -/
theorem test_unassigned_halt :
    afterEvent (.step 0 0) State.reset faultView = some (.halted, 4, 0x0200, 0x0000, 0x0200) := by decide

/-- V-F2. -/
theorem test_unassigned_skip :
    after 0x5121 State.reset.advance faultView = some (.halted, 4, 0x0202, 0x5121, 0x0202) ∧
      after 0x5121 { State.reset with straps := { shiftSrcVy := false, unimplHalt := false } }
        (fun t => (t.pc, t.unimpl, t.run)) =
          some (0x0202, { seen := true, pc := 0x0200, insn := 0x5121 }, .running) := by decide

/-- V-F4: a halted core. -/
theorem test_halted :
    afterEvent (.step 0 0) (State.reset.setRun .halted) id = some (State.reset.setRun .halted) ∧
      keySample 0xFFFF (State.reset.setRun .halted) = State.reset.setRun .halted := by decide

/-- V-F5. -/
theorem test_stop :
    ((stop State.reset).run, (stop State.reset).fault.code, (stop waiting).run) = (.halted, 0, .halted) := by decide

/-- The reference clocking (`70_reset_and_hazards.md` R222, R223): Tick comes in the cycle the divider wraps, and
before KeySample and Step. -/
theorem test_clock :
    clockEvents { refClock 600 300 with divCnt := 9, insnCnt := 1 } 5 7 = [.tick, .keySample 5, .step 5 7] ∧
      clockEvents (refClock 600 300) 5 7 = [.keySample 5] := by decide

/-! ### Witnesses: each statement's hypotheses are met together, each clause's at a boundary -/

/-- The default machine about to run a word at PC. -/
def ready (w : Nat) : State := State.reset.withFetchWord 16 w

/-- The state a Step event leaves, for the witnesses. -/
def next (s : State) : State :=
  match step s with
  | .next t => t
  | _ => s

/-- The state an instruction leaves, for the witnesses. -/
def done (i : Instr) (s : State) : State :=
  match exec i s with
  | .next t => t
  | _ => s

/-- Whether a next state is answered. -/
def answers (o : Host.Outcome State Fault Refusal) : Bool :=
  match o with
  | .next _ => true
  | _ => false

theorem step_next (s : State) (h : answers (step s) = true) : step s = .next (next s) := by
  unfold next; cases hs : step s <;> simp_all [answers]

theorem exec_done (i : Instr) (s : State) (h : answers (exec i s) = true) : exec i s = .next (done i s) := by
  unfold done; cases hs : exec i s <;> simp_all [answers]

/-- DecodeInvertsEncode. -/
theorem witness_DecodeInvertsEncode : Instr.wf (.drw 15 0 0xF) = true := by decide

/-- EncodeInvertsDecode. -/
theorem witness_EncodeInvertsDecode : decode 0xFF65 = some (.ldVxMem 0xF) := by decide

/-- DecodeFollowsOpcodeRows: a row that a word matches, and a word that is decoded. -/
theorem witness_DecodeFollowsOpcodeRows :
    (⟨"SHL", 0x800E, 0xF00F⟩ : OpcodeRow) ∈ opcodeRows ∧
      OpcodeRow.matches ⟨"SHL", 0x800E, 0xF00F⟩ 0x812E = true ∧ decode 0x812E = some (.shl 1 2) := by decide

/-- CheckedMemoryPrimitives: the last valid address of each form and the first invalid one. -/
theorem witness_CheckedMemoryPrimitives :
    memRead State.reset 0x1000 1 = .error .addressError ∧ memRead State.reset 0xFFF 1 = .ok [0] ∧
      memRead State.reset 0x050 1 = .ok [0xF0] ∧ memRead16 State.reset 0xFFF = .error .addressError ∧
      memRead16 State.reset 0xFFE = .ok 0 ∧ memRead16 State.reset 0x050 = .ok 0xF090 ∧
      memWrite State.reset 0x1000 [1] = .error .addressError := by decide

/-- PushAndPopCallStack: the stack full, with one slot free, empty, and with one entry. -/
theorem witness_PushAndPopCallStack :
    (State.reset.setStack (List.replicate 16 0x202) 16).sp = State.reset.cfg.stackDepth ∧
      (State.reset.setStack (List.replicate 16 0x202) 15).sp < State.reset.cfg.stackDepth ∧
      (List.replicate 16 (0x202 : Word)).length = State.reset.cfg.stackDepth ∧ State.reset.sp = 0 ∧
      (State.reset.setStack (List.replicate 16 0x202) 1).stack[0]? = some 0x202 := by decide

/-- StepRunsDecodedInstruction: a listed Step at the last fetch address; an unlisted one. -/
theorem witness_StepRunsDecodedInstruction :
    (State.reset.setPc 0x0FFE |>.withFetchWord 16 0x6007).cfg.wf = true ∧
      (State.reset.setPc 0x0FFE |>.withFetchWord 16 0x6007).run = .running ∧
      (State.reset.setPc 0x0FFE |>.withFetchWord 16 0x6007).pc.toNat ≤ 0xFFE ∧
      decode (wordAtPc (State.reset.setPc 0x0FFE |>.withFetchWord 16 0x6007)) = some (.ldVxNn 0 7) ∧
      (State.reset.setPc 0x0FFE |>.withFetchWord 16 0x6007).env.pending = [.step 0 0] ∧
      decode (wordAtPc (State.poke State.reset 0x200 [0x00, 0xE0])) = some .cls ∧
      (State.poke State.reset 0x200 [0x00, 0xE0]).env.pending = [] := by decide

/-- The default machine with one event listed. -/
def listed (e : HostEvent) (s : State) : State := schedule [e] s

/-- FetchAboveMemoryFaults: the first address at which a fetch faults. -/
theorem witness_FetchAboveMemoryFaults :
    (listed (.step 1 2) (State.reset.setPc 0x0FFF)).cfg.wf = true ∧
      (listed (.step 1 2) (State.reset.setPc 0x0FFF)).run = .running ∧
      (listed (.step 1 2) (State.reset.setPc 0x0FFF)).env.pending = [.step 1 2] ∧
      0xFFE < (listed (.step 1 2) (State.reset.setPc 0x0FFF)).pc.toNat := by decide

/-- UnassignedWordFollowsPolicy: both straps. -/
theorem witness_UnassignedWordFollowsPolicy :
    (ready 0x5121).cfg.wf = true ∧ (ready 0x5121).run = .running ∧ (ready 0x5121).env.pending = [.step 0 0] ∧
      (ready 0x5121).pc.toNat ≤ 0xFFE ∧ wordAtPc (ready 0x5121) = 0x5121 ∧ decode 0x5121 = none ∧
      (ready 0x5121).straps.unimplHalt = true ∧
      wordAtPc { ready 0x5121 with straps := { shiftSrcVy := false, unimplHalt := false } } = 0x5121 := by decide

/-- StepOutsideRunningChangesNothing: a waiting core and a halted one. -/
theorem witness_StepOutsideRunningChangesNothing :
    (listed (.step 1 2) waiting).cfg.wf = true ∧ (listed (.step 1 2) waiting).run = .awaitingKey ∧
      (listed (.step 1 2) waiting).env.pending = [.step 1 2] ∧
      (listed (.step 1 2) (stop State.reset)).run = .halted := by decide

/-- FaultingStepIsPrecise: FX55 at I = 0xFF1. -/
theorem witness_FaultingStepIsPrecise :
    step ((ready 0xFF55).setI 0xFF1) = .next (next ((ready 0xFF55).setI 0xFF1)) ∧
      ((ready 0xFF55).setI 0xFF1).run = .running ∧ ((ready 0xFF55).setI 0xFF1).env.pending = [.step 0 0] ∧
      (next ((ready 0xFF55).setI 0xFF1)).run = .halted :=
  ⟨step_next _ (by decide), by decide⟩

/-- EachFaultHasItsCauses: a Step that raises each code, and boundary values at which none is raised. -/
theorem witness_EachFaultHasItsCauses :
    (next ((ready 0xD121).setI 0xFFF)).fault.code = 0 ∧ (next ((ready 0xD122).setI 0xFFF)).fault.code = 1 ∧
      (next ((ready 0xD120).setI 0xFFF)).fault.code = 0 ∧ (next ((ready 0xF133).setI 0xFFD)).fault.code = 0 ∧
      (next ((ready 0xF133).setI 0xFFE)).fault.code = 1 ∧ (next ((ready 0xFF65).setI 0xFF0)).fault.code = 0 ∧
      (next ((ready 0xFF65).setI 0xFF1)).fault.code = 1 := by decide

/-- EachFaultHasItsCauses: the other codes. -/
theorem witness_EachFaultHasItsCauses_others :
    step (ready 0x0000) = .next (next (ready 0x0000)) ∧ (next (ready 0x0000)).fault.code = 4 ∧
      (next ((ready 0x2300).setStack (List.replicate 16 0) 16)).fault.code = 2 ∧
      (next ((ready 0x2300).setStack (List.replicate 16 0) 15)).fault.code = 0 ∧
      (next (ready 0x00EE)).fault.code = 3 ∧
      (next (listed (.step 0 0) (State.reset.setPc 0xFFF))).fault.code = 1 :=
  ⟨step_next _ (by decide), by decide⟩

/-- StepAlwaysAnswers: an accepted configuration and one that is not. -/
theorem witness_StepAlwaysAnswers :
    State.reset.cfg.wf = true ∧
      Config.wf { Config.standard with stackDepth := 0 } = false := by decide

/-- A state with a call pending on the stack and an instruction about to run. -/
def inSubroutine : State := (ready 0x6A7F).setStack (0x0202 :: List.replicate 15 0) 1

/-- StepKeepsInvariant: a state that meets the invariant, from which a step answers. -/
theorem witness_StepKeepsInvariant :
    Inv inSubroutine ∧ step inSubroutine = .next (next inSubroutine) :=
  ⟨{ config := by decide
     memory := by decide
     index := by decide
     counter := by decide
     entries := by decide
     depth := by decide
     returns := by
       intro w hw
       have : inSubroutine.stack.take inSubroutine.sp = [0x0202] := by decide
       rw [this, List.mem_singleton] at hw
       subst hw
       decide
     codes := by decide
     faulted := by decide
     unfaulted := by decide
     unseen := by decide
     haltPolicy := by decide }, step_next _ (by decide)⟩

/-- OnlyNamedInstructionsWrite: instructions that do write the state named. -/
theorem witness_OnlyNamedInstructionsWrite :
    exec (.ldINnn 0x300) State.reset = .next (done (.ldINnn 0x300) State.reset) ∧
      (done (.ldINnn 0x300) State.reset).i ≠ State.reset.i ∧
      (done (.call 0x300) State.reset).stack ≠ State.reset.stack ∧
      (done (.call 0x300) State.reset).sp ≠ State.reset.sp ∧
      (done (.ldDtVx 1) (withRegs [(1, 5)])).dt ≠ State.reset.dt ∧
      (done (.ldStVx 1) (withRegs [(1, 5)])).st ≠ State.reset.st ∧
      (done (.drw 0 0 5) (State.reset.setI 0x50)).fb ≠ State.reset.fb ∧
      (done (.ldBVx 1) ((withRegs [(1, 5)]).setI 0x300)).mem ≠ State.reset.mem ∧
      (done (.ldVxK 3) State.reset).waitX ≠ State.reset.waitX ∧
      (done (.ldVxK 3) State.reset).run = .awaitingKey ∧
      (done (.ldVxMem 4) (State.reset.setI 0x50)).reg 4 ≠ State.reset.reg 4 ∧
      (done (.drw 0 0 2) (State.reset.setI 0xFFF)).run ≠ State.reset.run ∧
      (done (.drw 0 0 2) (State.reset.setI 0xFFF)).fault ≠ State.reset.fault :=
  ⟨exec_done _ _ (by decide), by decide⟩

/-- FlagRegisterHasItsWriters. -/
theorem witness_FlagRegisterHasItsWriters :
    exec (.shl 1 2) (withRegs [(1, 0x80)]) = .next (done (.shl 1 2) (withRegs [(1, 0x80)])) ∧
      exec (.drw 0 0 1) (State.reset.setI 0xFFF) = .next (done (.drw 0 0 1) (State.reset.setI 0xFFF)) ∧
      (done (.shl 1 2) (withRegs [(1, 0x80)])).reg 0xF ≠ (withRegs [(1, 0x80)]).reg 0xF ∧
      indexAddress (State.reset.setI 0xFFF) + (1 : BitVec 4).toNat - 1 ≤ 0xFFF ∧
      (done (.ldVxNn 0xF 7) State.reset).reg 0xF ≠ State.reset.reg 0xF :=
  ⟨exec_done _ _ (by decide), exec_done _ _ (by decide), by decide⟩

/-- InputsReachOnlyTheirInstructions: an instruction that reads neither input, under another environment. -/
theorem witness_InputsReachOnlyTheirInstructions :
    (∀ x, Instr.cls ≠ .skp x ∧ Instr.cls ≠ .sknp x ∧ Instr.cls ≠ .ldVxK x) ∧
      (∀ x nn, Instr.cls ≠ .rnd x nn) ∧ exec .cls State.reset = .next (done .cls State.reset) ∧
      (inputs 0xFFFF 0xFF State.reset).env ≠ State.reset.env :=
  ⟨fun _ => ⟨nofun, nofun, nofun⟩, fun _ _ => nofun, exec_done _ _ (by decide), by decide⟩

/-- ShiftsSetBitMovedOutLast: both straps give a source. -/
theorem witness_ShiftsSetBitMovedOutLast :
    (0xAA : Byte) = (if (withRegs [(1, 0xAA), (2, 5)]).straps.shiftSrcVy = true
      then (withRegs [(1, 0xAA), (2, 5)]).reg 2 else (withRegs [(1, 0xAA), (2, 5)]).reg 1) := by decide

/-- CallPushesReturnAddress, ReturnComesBackAfterCall: the last free slot, and the full stack. -/
theorem witness_CallPushesReturnAddress :
    exec (.call 0x300) (State.reset.setStack State.reset.stack 15) =
        .next (done (.call 0x300) (State.reset.setStack State.reset.stack 15)) ∧
      15 < State.reset.cfg.stackDepth ∧ State.reset.stack.length = State.reset.cfg.stackDepth ∧
      (done (.call 0x300) (State.reset.setStack State.reset.stack 15)).sp = State.reset.cfg.stackDepth :=
  ⟨exec_done _ _ (by decide), by decide⟩

/-- ReturnPopsReturnAddress: one entry, and none. -/
theorem witness_ReturnPopsReturnAddress :
    0 < inSubroutine.sp ∧ inSubroutine.stack[inSubroutine.sp - 1]? = some 0x0202 ∧ State.reset.sp = 0 := by decide

/-- EvenTargetsKeepPcEven: an even jump, an even computed jump and an even stack. -/
theorem witness_EvenTargetsKeepPcEven :
    exec (.jpV0 0x301) (withRegs [(0, 3)]) = .next (done (.jpV0 0x301) (withRegs [(0, 3)])) ∧
      (withRegs [(0, 3)]).pc.toNat % 2 = 0 ∧ (∀ w ∈ (withRegs [(0, 3)]).stack, w.toNat % 2 = 0) ∧
      (0x301 + ((withRegs [(0, 3)]).reg 0).toNat) % 2 = 0 := by
  refine ⟨exec_done _ _ (by decide), by decide, fun w hw => ?_, by decide⟩
  have : (withRegs [(0, 3)]).stack = List.replicate 16 0 := by decide
  rw [this] at hw
  rw [List.eq_of_mem_replicate hw]
  decide

/-- IndexPointsAtGlyph, StepAlwaysAnswers, ResetSetsEveryPiece, UnlistedStepIsTicksSampleAndStep: the default
configuration, and the one with the highest font. -/
theorem witness_IndexPointsAtGlyph :
    State.reset.cfg.wf = true ∧ Config.wf { Config.standard with fontBase := 0x1B0 } = true ∧
      State.reset.env.pending = [] := by decide

/-- DecimalDigitsAreStored, RegistersAreStored, RegistersAreLoaded: the last base that fits and the first that
does not. -/
theorem witness_stores_at_the_boundary :
    indexAddress (State.reset.setI 0xFFD) + 2 ≤ 0xFFF ∧ 0xFFF < indexAddress (State.reset.setI 0xFFE) + 2 ∧
      indexAddress (State.reset.setI 0xFF0) + (0xF : Reg).val ≤ 0xFFF ∧
      0xFFF < indexAddress (State.reset.setI 0xFF1) + (0xF : Reg).val := by decide

/-- LoadRestoresStoredRegisters: the registers cleared in between. -/
theorem witness_LoadRestoresStoredRegisters :
    exec (.ldMemVx 1) ((withRegs [(0, 0xAB), (1, 0xCD)]).setI 0xFFE) =
        .next (done (.ldMemVx 1) ((withRegs [(0, 0xAB), (1, 0xCD)]).setI 0xFFE)) ∧
      indexAddress ((withRegs [(0, 0xAB), (1, 0xCD)]).setI 0xFFE) + (1 : Reg).val ≤ 0xFFF ∧
      ((done (.ldMemVx 1) ((withRegs [(0, 0xAB), (1, 0xCD)]).setI 0xFFE)).setReg 0 0).i = 0xFFE ∧
      ((done (.ldMemVx 1) ((withRegs [(0, 0xAB), (1, 0xCD)]).setI 0xFFE)).setReg 0 0).byteAt 0xFFE = 0xAB :=
  ⟨exec_done _ _ (by decide), by decide⟩

/-- StoredBytesAreFetched: a word stored at 0x208 and fetched (program 8). -/
theorem witness_StoredBytesAreFetched :
    exec (.ldMemVx 1) ((withRegs [(0, 0x12), (1, 0x0A)]).setI 0x208) =
        .next (done (.ldMemVx 1) ((withRegs [(0, 0x12), (1, 0x0A)]).setI 0x208)) ∧
      indexAddress ((withRegs [(0, 0x12), (1, 0x0A)]).setI 0x208) + (1 : Reg).val ≤ 0xFFF ∧
      (1 : Reg).val = (0 : Reg).val + 1 ∧ (0x208 : Word).toNat = 0x208 ∧
      fetch ((done (.ldMemVx 1) ((withRegs [(0, 0x12), (1, 0x0A)]).setI 0x208)).setPc 0x208) = .ok 0x120A :=
  ⟨exec_done _ _ (by decide), by decide, by decide, by decide, by decide⟩

/-- DrawComplementsCoveredPixels, DrawingTwiceRestoresScreen: no row, the last row that fits, one that does
not, and a draw that answers. -/
theorem witness_DrawComplementsCoveredPixels :
    exec (.drw 1 2 1) (State.reset.setI 0xFFF) = .next (done (.drw 1 2 1) (State.reset.setI 0xFFF)) ∧
      (0 : BitVec 4).toNat = 0 ∧ indexAddress (State.reset.setI 0xFFF) + (1 : BitVec 4).toNat - 1 ≤ 0xFFF ∧
      0xFFF < indexAddress (State.reset.setI 0xFFF) + (2 : BitVec 4).toNat - 1 ∧ (1 : Reg) ≠ 0xF ∧
      (2 : Reg) ≠ 0xF :=
  ⟨exec_done _ _ (by decide), by decide⟩

/-- A cell that a sprite covers and one that it does not: column 3 of row 1 of glyph 0, and column 1. -/
theorem witness_SpriteCovers :
    SpriteCovers (State.reset.setI 0x050) 0 0 5 3 1 ∧
      (State.byteAt (State.reset.setI 0x050) 0x051).getLsbD (7 - 1) = false :=
  ⟨⟨1, 3, by decide⟩, by decide⟩

/-- KeySampleEndsTheWait: not waiting, no key newly down, a key newly down. -/
theorem witness_KeySampleEndsTheWait :
    State.reset.run ≠ .awaitingKey ∧ waiting.run = .awaitingKey ∧ 0x0001 &&& ~~~waiting.keyPrev = 0 ∧
      0x8001 &&& ~~~waiting.keyPrev ≠ 0 := by decide

/-- StopHaltsWithoutFault: a core that runs and one that has halted. -/
theorem witness_StopHaltsWithoutFault : State.reset.run ≠ .halted ∧ (stop State.reset).run = .halted := by decide

/-- ResetSetsEveryPiece: the first and the last byte of each region. -/
theorem witness_ResetSetsEveryPiece :
    0 < [(0x12 : Byte), 0x00].length ∧ 0 < 3584 ∧ 79 < 80 ∧ 0x04F < State.reset.cfg.fontBase ∧
      State.reset.cfg.fontBase + 80 ≤ 0x0A0 ∧ 0x0A0 < 0x200 ∧
      0x200 + min [(0x12 : Byte), 0x00].length 3584 ≤ 0x202 := by decide

/-- HaltedIsFinalUntilReset: a halted core with a Tick, with a KeySample and with a Step listed. -/
theorem witness_HaltedIsFinalUntilReset :
    step (listed .tick (stop State.reset)) = .next (next (listed .tick (stop State.reset))) ∧
      step (listed (.step 1 2) (stop State.reset)) = .next (next (listed (.step 1 2) (stop State.reset))) ∧
      (listed .tick (stop State.reset)).run = .halted ∧ (listed .tick (stop State.reset)).env.pending = [.tick] ∧
      (listed (.step 1 2) (stop State.reset)).env.pending = [.step 1 2] :=
  ⟨step_next _ (by decide), step_next _ (by decide), by decide⟩

/-- FetchWordIsRunNext: a word of the table, and a PC at which no word can stand. -/
theorem witness_FetchWordIsRunNext :
    decodeTableWord 16 0x6A7F = some (.ldVxNn 0xA 0x7F) ∧
      after 0x6A7F (State.reset.setPc 0xFFF) State.pc = some 0x0202 := by decide

/-- ReferenceClockTicksOncePerPeriod: the last cycle of a period, from the middle of one. -/
theorem witness_ReferenceClockTicksOncePerPeriod :
    ({ refClock 600 300 with divCnt := 4 } : RefClock).divCnt < ({ refClock 600 300 with divCnt := 4 } : RefClock).tickDiv ∧
      5 < (refClock 600 300).tickDiv := by decide

/-- A halted core under a Tick at every instant. -/
def tickingDown (n : Nat) : State := tick^[n] ((stop State.reset).setDt 5)

theorem tickingDown_run (n : Nat) : (tickingDown n).run = .halted := by
  induction n with
  | zero => rfl
  | succ n ih => rw [tickingDown, Function.iterate_succ_apply']; exact ih

/-- FairTicksEmptyDelayTimer: a fair run of a core that never runs again. -/
theorem witness_FairTicksEmptyDelayTimer :
    RunsUnder (fun _ => .tick) tickingDown ∧ Fair (fun _ => .tick) tickingDown ∧
      ∀ n, (tickingDown n).run ≠ .running := by
  have hrun : ∀ n, (tickingDown n).run ≠ .running := fun n => by rw [tickingDown_run]; decide
  refine ⟨fun n => ?_, ⟨fun n => ⟨n, Nat.le_refl n, rfl⟩, fun n h => ?_⟩, hrun⟩
  · show Host.Outcome.next (tick (tickingDown n)) = .next (tickingDown (n + 1))
    rw [tickingDown, tickingDown, Function.iterate_succ_apply']
  · exact absurd (h n (Nat.le_refl n)) (hrun n)

end Sys2Proof.Tests
end

/-! ### What an instruction can do

One case per shape of result. `effect_of_exec` is the only case analysis over the 34 instructions here: which
instruction writes what, the flag register, the parity of PC and the invariant are all read off `Effect`. -/

namespace Sys2Proof.Machine

/-- The results an instruction can have on a state. -/
inductive Effect (s : State) : Instr → State → Prop
  /-- The instruction raises, and its fault is entered (`60_exceptions.md` R178). -/
  | fault {i : Instr} {f : Fault} (h : raised i s = some f) : Effect s i (enterFault f s.pc (encode i) s)
  /-- Only V registers that the instruction names change. -/
  | regs {i : Instr} (v : Vector Byte 16) (h : ∀ r, v.get r ≠ s.reg r → MayWriteReg r i) :
      Effect s i { s.advance with v := v }
  /-- A conditional skip over one or two words. -/
  | skip {i : Instr} (c : Bool) : Effect s i (s.setPc (if c then s.pc + 4 else s.pc + 2))
  | jp (nnn : BitVec 12) : Effect s (.jp nnn) (s.setPc (zextAddr nnn))
  | jpV0 (nnn : BitVec 12) : Effect s (.jpV0 nnn) (s.setPc (zextAddr nnn + zextByte (s.reg 0)))
  | ret (h : s.sp ≠ 0) : Effect s .ret ((s.setStack s.stack (s.sp - 1)).setPc (s.stack.getD (s.sp - 1) 0))
  | call (nnn : BitVec 12) (h : s.sp ≠ s.cfg.stackDepth) :
      Effect s (.call nnn) ((s.setStack (s.stack.set s.sp (s.pc + 2)) (s.sp + 1)).setPc (zextAddr nnn))
  | cls : Effect s .cls (s.advance.setFb blankScreen)
  | drw (x y : Reg) (n : BitVec 4) :
      Effect s (.drw x y n) ((s.advance.setFb (drawing x y n s).fb).setFlag (drawing x y n s).collision)
  /-- I gets a word, which an accepted configuration keeps in memory (`10_state.md` R15). -/
  | index {i : Instr} (w : Word) (hi : (∃ nnn, i = .ldINnn nnn) ∨ (∃ x, i = .addIVx x) ∨ (∃ x, i = .ldFVx x))
      (hw : s.cfg.wf = true → w.toNat ≤ 0x0FFF) : Effect s i (s.advance.setI w)
  /-- Bytes go to MEM from I on, all below 0x1000. -/
  | store {i : Instr} (bs : List Byte) (hi : (∃ x, i = .ldBVx x) ∨ ∃ x, i = .ldMemVx x)
      (hb : s.i.toNat + bs.length ≤ 0x1000) :
      Effect s i (s.advance.setMem (Memory.writeBlock s.cfg s.mem s.i.toNat bs))
  | ldVxK (x : Reg) :
      Effect s (.ldVxK x) (((s.advance.setWaitX x).setKeyPrev s.env.keys).setRun .awaitingKey)
  | ldDtVx (x : Reg) : Effect s (.ldDtVx x) (s.advance.setDt (s.reg x))
  | ldStVx (x : Reg) : Effect s (.ldStVx x) (s.advance.setSt (s.reg x))

/-! #### The shapes that several instructions share -/

theorem Effect.setReg {i : Instr} {s : State} {x : Reg} (b : Byte) (h : MayWriteReg x i) :
    Effect s i (s.advance.setReg x b) := by
  refine .regs (s.advance.setReg x b).v fun r hr => ?_
  change (s.advance.setReg x b).reg r ≠ s.reg r at hr
  by_cases hx : r = x
  · exact hx ▸ h
  · exact absurd (by simp [hx]) hr

theorem Effect.setWithFlag {i : Instr} {s : State} {x : Reg} (b : Byte) (f : Bool)
    (hx : MayWriteReg x i) (hf : MayWriteReg 0xF i) : Effect s i (s.advance.setWithFlag x b f) := by
  refine .regs (s.advance.setWithFlag x b f).v fun r hr => ?_
  change (s.advance.setWithFlag x b f).reg r ≠ s.reg r at hr
  by_cases h1 : r = x
  · exact h1 ▸ hx
  · by_cases h2 : r = 0xF
    · exact h2 ▸ hf
    · exact absurd (State.setWithFlag_other _ x r b f h1 h2) hr

theorem Effect.skipIf (i : Instr) (s : State) (c : Bool) : Effect s i (s.advance.skipIf c) := by
  rw [State.advance_skipIf]
  exact .skip c

theorem Effect.load (s : State) (x : Reg) (bs : List Byte) (hb : bs.length = x.val + 1) :
    Effect s (.ldVxMem x) (s.advance.setRegsFrom 0 bs) := by
  rw [State.setRegsFrom_eq]
  refine .regs (s.advance.setRegsFrom 0 bs).v fun r hr => ?_
  change (s.advance.setRegsFrom 0 bs).reg r ≠ s.reg r at hr
  rw [State.setRegsFrom_reg bs s.advance 0 r (by omega)] at hr
  by_cases hx : r.val ≤ x.val
  · exact .inr (.inr (.inr (.inr (.inr ⟨x, rfl, hx⟩))))
  · exact absurd (by rw [if_neg (by omega)]; rfl) hr

/-! #### Where the index instructions point -/

theorem zextAddr_toNat (nnn : BitVec 12) : (zextAddr nnn).toNat = nnn.toNat := by
  simp only [zextAddr, BitVec.toNat_setWidth]; omega

theorem zextAddr_le (nnn : BitVec 12) : (zextAddr nnn).toNat ≤ 0x0FFF := by
  rw [zextAddr_toNat]; omega

theorem indexPlus_le (w : Word) (b : Byte) : (indexPlus w b).toNat ≤ 0x0FFF := by
  simp only [indexPlus, BitVec.toNat_ofNat]; omega

theorem fontBase_le {c : Config} (h : c.wf = true) : c.fontBase + 80 ≤ 0x200 := by
  simp only [Config.wf, Bool.and_eq_true, decide_eq_true_eq] at h
  exact h.1.1.1

theorem glyphAddress_le {c : Config} (h : c.wf = true) (d : Byte) : (glyphAddress c d).toNat ≤ 0x0FFF := by
  have hbase := fontBase_le h
  have hd := d.isLt
  rw [glyphAddress, BitVec.toNat_ofNat]
  exact (Nat.mod_le ..).trans (by omega)

/-- BNNN's sum is not reduced (`41_control_flow.md` R107). -/
theorem computedTarget_toNat (nnn : BitVec 12) (b : Byte) :
    (zextAddr nnn + zextByte b).toNat = nnn.toNat + b.toNat := by
  simp only [zextAddr, zextByte, BitVec.toNat_add, BitVec.toNat_setWidth]; omega

/-! #### The case analysis -/

/-- Every instruction that raises nothing has its effect. -/
theorem exec_effect_of_not_raised (i : Instr) (s : State) (h : raised i s = none) :
    ∃ t, exec i s = .next t ∧ Effect s i t := by
  cases i
  case cls => exact ⟨_, exec_cls s, .cls⟩
  case ret =>
    have hsp : s.sp ≠ 0 := by simpa [raised] using h
    exact ⟨_, exec_ret_ok s hsp, .ret hsp⟩
  case jp nnn => exact ⟨_, exec_jp nnn s, .jp nnn⟩
  case call nnn =>
    have hsp : s.sp ≠ s.cfg.stackDepth := by simpa [raised] using h
    exact ⟨_, exec_call_ok nnn s hsp, .call nnn hsp⟩
  case seVxNn x nn => exact ⟨_, exec_seVxNn x nn s, .skipIf _ s _⟩
  case sneVxNn x nn => exact ⟨_, exec_sneVxNn x nn s, .skipIf _ s _⟩
  case seVxVy x y => exact ⟨_, exec_seVxVy x y s, .skipIf _ s _⟩
  case sneVxVy x y => exact ⟨_, exec_sneVxVy x y s, .skipIf _ s _⟩
  case skp x => exact ⟨_, exec_skp x s, .skipIf _ s _⟩
  case sknp x => exact ⟨_, exec_sknp x s, .skipIf _ s _⟩
  case jpV0 nnn => exact ⟨_, exec_jpV0 nnn s, .jpV0 nnn⟩
  case ldVxNn x nn => exact ⟨_, exec_ldVxNn x nn s, .setReg _ (by simp [MayWriteReg])⟩
  case addVxNn x nn => exact ⟨_, exec_addVxNn x nn s, .setReg _ (by simp [MayWriteReg])⟩
  case rnd x nn => exact ⟨_, exec_rnd x nn s, .setReg _ (by simp [MayWriteReg])⟩
  case ldVxVy x y => exact ⟨_, exec_ldVxVy x y s, .setReg _ (by simp [MayWriteReg])⟩
  case or x y => exact ⟨_, exec_or x y s, .setReg _ (by simp [MayWriteReg])⟩
  case and x y => exact ⟨_, exec_and x y s, .setReg _ (by simp [MayWriteReg])⟩
  case xor x y => exact ⟨_, exec_xor x y s, .setReg _ (by simp [MayWriteReg])⟩
  case ldVxDt x => exact ⟨_, exec_ldVxDt x s, .setReg _ (by simp [MayWriteReg])⟩
  case addVxVy x y =>
    exact ⟨_, exec_addVxVy x y s, .setWithFlag _ _ (by simp [MayWriteReg]) (by simp [MayWriteReg])⟩
  case sub x y => exact ⟨_, exec_sub x y s, .setWithFlag _ _ (by simp [MayWriteReg]) (by simp [MayWriteReg])⟩
  case subn x y => exact ⟨_, exec_subn x y s, .setWithFlag _ _ (by simp [MayWriteReg]) (by simp [MayWriteReg])⟩
  case shr x y => exact ⟨_, exec_shr x y s, .setWithFlag _ _ (by simp [MayWriteReg]) (by simp [MayWriteReg])⟩
  case shl x y => exact ⟨_, exec_shl x y s, .setWithFlag _ _ (by simp [MayWriteReg]) (by simp [MayWriteReg])⟩
  case drw x y n =>
    have hn : n = 0 ∨ s.i.toNat + n.toNat ≤ 0x1000 := by
      simp only [raised] at h; split at h
      · assumption
      · cases h
    exact ⟨_, exec_drw_ok x y n s hn, .drw x y n⟩
  case ldINnn nnn => exact ⟨_, exec_ldINnn nnn s, .index _ (.inl ⟨nnn, rfl⟩) fun _ => zextAddr_le nnn⟩
  case addIVx x => exact ⟨_, exec_addIVx x s, .index _ (.inr (.inl ⟨x, rfl⟩)) fun _ => indexPlus_le _ _⟩
  case ldFVx x => exact ⟨_, exec_ldFVx x s, .index _ (.inr (.inr ⟨x, rfl⟩)) fun hc => glyphAddress_le hc _⟩
  case ldBVx x =>
    have hi : s.i.toNat + 2 ≤ 0xFFF := by simpa [raised] using h
    exact ⟨_, exec_ldBVx_ok x s hi, .store _ (.inl ⟨x, rfl⟩) (by rw [decimalDigits_length]; omega)⟩
  case ldMemVx x =>
    have hi : s.i.toNat + x.val ≤ 0xFFF := by simpa [raised] using h
    exact ⟨_, exec_ldMemVx_ok x s hi, .store _ (.inr ⟨x, rfl⟩) (by rw [regBlock_length]; omega)⟩
  case ldVxMem x =>
    have hi : s.i.toNat + x.val ≤ 0xFFF := by simpa [raised] using h
    exact ⟨_, exec_ldVxMem_ok x s hi, .load s x _ (Memory.readBlock_length ..)⟩
  case ldVxK x => exact ⟨_, exec_ldVxK x s, .ldVxK x⟩
  case ldDtVx x => exact ⟨_, exec_ldDtVx x s, .ldDtVx x⟩
  case ldStVx x => exact ⟨_, exec_ldStVx x s, .ldStVx x⟩

/-- What an instruction that answers has done. -/
theorem effect_of_exec {i : Instr} {s t : State} (h : exec i s = .next t) : Effect s i t := by
  cases hr : raised i s with
  | some f =>
    rw [exec_raised i s f hr] at h
    cases h
    exact .fault hr
  | none =>
    obtain ⟨u, hu, he⟩ := exec_effect_of_not_raised i s hr
    rw [hu] at h
    cases h
    exact he

/-! ### Which instruction writes which piece of state -/

section Writers

variable {i : Instr} {s t : State}

theorem Effect.reg_writer (e : Effect s i t) (r : Reg) (h : t.reg r ≠ s.reg r) : MayWriteReg r i := by
  cases e with
  | regs v hv => exact hv r h
  | drw x y n =>
    by_cases hr : r = 0xF
    · simp [MayWriteReg, hr]
    · exact absurd (by simp [regFlag, hr]) h
  | _ => exact absurd rfl h

theorem Effect.index_writer (e : Effect s i t) (h : t.i ≠ s.i) :
    (∃ nnn, i = .ldINnn nnn) ∨ (∃ x, i = .addIVx x) ∨ (∃ x, i = .ldFVx x) := by
  cases e with
  | index w hi => exact hi
  | _ => exact absurd rfl h

theorem Effect.stack_writer (e : Effect s i t) (h : t.stack ≠ s.stack) : ∃ nnn, i = .call nnn := by
  cases e with
  | call nnn => exact ⟨nnn, rfl⟩
  | _ => exact absurd rfl h

theorem Effect.sp_writer (e : Effect s i t) (h : t.sp ≠ s.sp) : i = .ret ∨ ∃ nnn, i = .call nnn := by
  cases e with
  | ret => exact .inl rfl
  | call nnn => exact .inr ⟨nnn, rfl⟩
  | _ => exact absurd rfl h

theorem Effect.dt_writer (e : Effect s i t) (h : t.dt ≠ s.dt) : ∃ x, i = .ldDtVx x := by
  cases e with
  | ldDtVx x => exact ⟨x, rfl⟩
  | _ => exact absurd rfl h

theorem Effect.st_writer (e : Effect s i t) (h : t.st ≠ s.st) : ∃ x, i = .ldStVx x := by
  cases e with
  | ldStVx x => exact ⟨x, rfl⟩
  | _ => exact absurd rfl h

theorem Effect.fb_writer (e : Effect s i t) (h : t.fb ≠ s.fb) : i = .cls ∨ ∃ x y n, i = .drw x y n := by
  cases e with
  | cls => exact .inl rfl
  | drw x y n => exact .inr ⟨x, y, n, rfl⟩
  | _ => exact absurd rfl h

theorem Effect.mem_writer (e : Effect s i t) (h : t.mem ≠ s.mem) :
    (∃ x, i = .ldBVx x) ∨ ∃ x, i = .ldMemVx x := by
  cases e with
  | store bs hi => exact hi
  | _ => exact absurd rfl h

theorem Effect.keyWait_writer (e : Effect s i t) (h : t.waitX ≠ s.waitX ∨ t.keyPrev ≠ s.keyPrev) :
    ∃ x, i = .ldVxK x := by
  cases e with
  | ldVxK x => exact ⟨x, rfl⟩
  | _ => exact absurd h (not_or_intro (fun hx => hx rfl) (fun hk => hk rfl))

theorem Effect.run_writer (e : Effect s i t) (h : t.run ≠ s.run) :
    (t.run = .awaitingKey ∧ ∃ x, i = .ldVxK x) ∨ (t.run = .halted ∧ MayFault i) := by
  cases e with
  | fault hr => exact .inr ⟨rfl, mayFault_of_raised i s _ hr⟩
  | ldVxK x => exact .inl ⟨rfl, x, rfl⟩
  | _ => exact absurd rfl h

theorem Effect.fault_writer (e : Effect s i t) (h : t.fault ≠ s.fault) : t.run = .halted ∧ MayFault i := by
  cases e with
  | fault hr => exact ⟨rfl, mayFault_of_raised i s _ hr⟩
  | _ => exact absurd rfl h

/-- No instruction writes the skip record, the straps, the configuration or the environment. -/
theorem Effect.setup_kept (e : Effect s i t) :
    t.unimpl = s.unimpl ∧ t.straps = s.straps ∧ t.cfg = s.cfg ∧ t.env = s.env := by
  cases e <;> exact ⟨rfl, rfl, rfl, rfl⟩

end Writers

/-- Settles O17: each clause is one piece of state read off the instruction's effect. -/
theorem onlyNamedInstructionsWrite : Obligations.OnlyNamedInstructionsWrite := by
  intro i s t h
  have e := effect_of_exec h
  exact ⟨e.reg_writer, e.index_writer, e.stack_writer, e.sp_writer, e.dt_writer, e.st_writer, e.fb_writer,
    e.mem_writer, e.keyWait_writer, e.run_writer, e.fault_writer, e.setup_kept⟩

/-! ### The flag register -/

/-- The five arithmetic instructions with a flag write a result and then the flag. -/
theorem exec_flagOp {i : Instr} {x y : Reg} (s : State)
    (h : i = .addVxVy x y ∨ i = .sub x y ∨ i = .shr x y ∨ i = .subn x y ∨ i = .shl x y) :
    ∃ b f, exec i s = .next (s.advance.setWithFlag x b f) := by
  rcases h with rfl | rfl | rfl | rfl | rfl
  · exact ⟨_, _, exec_addVxVy x y s⟩
  · exact ⟨_, _, exec_sub x y s⟩
  · exact ⟨_, _, exec_shr x y s⟩
  · exact ⟨_, _, exec_subn x y s⟩
  · exact ⟨_, _, exec_shl x y s⟩

/-- The instructions that may write V[0xF], with the destination of a load or copy made explicit. -/
theorem flagWriter_of_mayWriteReg {i : Instr} (h : MayWriteReg 0xF i) :
    (∃ x y, i = .addVxVy x y ∨ i = .sub x y ∨ i = .shr x y ∨ i = .subn x y ∨ i = .shl x y) ∨
      (∃ x y n, i = .drw x y n) ∨
      (∃ nn, i = .ldVxNn 0xF nn ∨ i = .addVxNn 0xF nn ∨ i = .rnd 0xF nn) ∨
      (∃ y, i = .ldVxVy 0xF y ∨ i = .or 0xF y ∨ i = .and 0xF y ∨ i = .xor 0xF y) ∨
      i = .ldVxDt 0xF ∨ i = .ldVxMem 0xF := by
  rcases h with hImm | hCopy | ⟨x, y, hFlag, -⟩ | ⟨x, y, n, hDraw, -⟩ | hDt | ⟨x, hLoad, hx⟩
  · exact .inr (.inr (.inl hImm))
  · exact .inr (.inr (.inr (.inl hCopy)))
  · exact .inl ⟨x, y, hFlag⟩
  · exact .inr (.inl ⟨x, y, n, hDraw⟩)
  · exact .inr (.inr (.inr (.inr (.inl hDt))))
  · have h15 : x = 0xF := Fin.ext (Nat.le_antisymm (Nat.lt_succ_iff.1 x.isLt) hx)
    exact .inr (.inr (.inr (.inr (.inr (h15 ▸ hLoad)))))

/-- Settles O18: the flag is written last by the six, and any other change of V[0xF] is by an instruction that
names it. -/
theorem flagRegisterHasItsWriters : Obligations.FlagRegisterHasItsWriters := by
  intro i s t h
  refine ⟨fun x y hi => ?_, fun x y n hi hn => ?_, fun hne => ?_⟩
  · obtain ⟨b, f, hx⟩ := exec_flagOp s hi
    rw [hx] at h
    cases h
    rw [State.setWithFlag_flag]
    exact flagByte_zero_or_one f
  · subst hi
    have hfits : n = 0 ∨ s.i.toNat + n.toNat ≤ 0x1000 :=
      hn.imp (fun h0 => BitVec.eq_of_toNat_eq h0) (fun hle => by unfold indexAddress at hle; omega)
    rw [exec_drw_ok x y n s hfits] at h
    cases h
    rw [State.setFlag_reg, if_pos (show (0xF : Reg) = regFlag from rfl)]
    exact flagByte_zero_or_one _
  · exact flagWriter_of_mayWriteReg ((effect_of_exec h).reg_writer 0xF hne)

/-! ### The parity of PC -/

theorem even_add_two {w : Word} (h : w.toNat % 2 = 0) : (w + 2).toNat % 2 = 0 := by
  bv_omega

theorem even_add_four {w : Word} (h : w.toNat % 2 = 0) : (w + 4).toNat % 2 = 0 := by
  bv_omega

/-- The entry that Pop gives is even; beyond the list it is 0. -/
theorem even_getD {l : List Word} (h : ∀ w ∈ l, w.toNat % 2 = 0) (k : Nat) : (l.getD k 0).toNat % 2 = 0 := by
  rw [List.getD_eq_getElem?_getD]
  cases hk : l[k]? with
  | none => rfl
  | some w => exact h w (List.mem_of_getElem? hk)

/-- Settles O32, by the instruction's effect on PC and STACK. -/
theorem evenTargetsKeepPcEven : Obligations.EvenTargetsKeepPcEven := by
  intro i s t hpc hstack htarget hcomputed h
  have hnext := even_add_two hpc
  cases effect_of_exec h with
  | fault _ => exact ⟨hpc, hstack⟩
  | skip c =>
    refine ⟨?_, hstack⟩
    cases c
    · exact hnext
    · exact even_add_four hpc
  | jp nnn => exact ⟨(zextAddr_toNat nnn).symm ▸ htarget nnn (.inl rfl), hstack⟩
  | jpV0 nnn => exact ⟨(computedTarget_toNat nnn (s.reg 0)).symm ▸ hcomputed nnn rfl, hstack⟩
  | ret _ => exact ⟨even_getD hstack _, hstack⟩
  | call nnn _ =>
    refine ⟨(zextAddr_toNat nnn).symm ▸ htarget nnn (.inr rfl), fun w hw => ?_⟩
    rcases List.mem_or_eq_of_mem_set hw with hold | rfl
    · exact hstack w hold
    · exact hnext
  | _ => exact ⟨hnext, hstack⟩

/-! ### Push and Pop -/

/-- Settles O7, from what Push and Pop answer. -/
theorem pushAndPopCallStack : Obligations.PushAndPopCallStack := by
  intro s w
  refine ⟨fun hfull => if_pos hfull, fun hroom hlen => ?_, fun hempty => if_pos hempty, fun hpos htop => ?_⟩
  · have hpush := ((push_cases s w).resolve_left fun h => hroom.ne h.1).2
    refine ⟨_, hpush, rfl, ?_, fun k hk => ?_, rfl⟩
    · exact List.getElem?_set_self (hlen ▸ hroom)
    · exact List.getElem?_set_ne (Ne.symm hk)
  · have hpop := ((pop_cases s).resolve_left fun h => hpos.ne' h.1).2
    rw [hpop, List.getD_eq_getElem?_getD, htop]
    rfl

end Sys2Proof.Machine

/-! ### The invariant: one rule per operation on the state -/

namespace Sys2Proof

open Sys2Proof.Machine

variable {s : State}

/-- No fault is recorded while the core has not halted. -/
theorem Inv.code_eq_zero (hs : Inv s) (h : s.run ≠ .halted) : s.fault.code = 0 :=
  by_contra fun hne => h (hs.faulted hne).1

theorem Inv.setRegs (hs : Inv s) (v : Vector Byte 16) : Inv { s with v := v } := { hs with }

theorem Inv.setReg (hs : Inv s) (x : Reg) (b : Byte) : Inv (s.setReg x b) := hs.setRegs _

theorem Inv.setFb (hs : Inv s) (fb : Framebuffer) : Inv (s.setFb fb) := { hs with }

theorem Inv.setDt (hs : Inv s) (b : Byte) : Inv (s.setDt b) := { hs with }

theorem Inv.setSt (hs : Inv s) (b : Byte) : Inv (s.setSt b) := { hs with }

theorem Inv.setWaitX (hs : Inv s) (x : Reg) : Inv (s.setWaitX x) := { hs with }

theorem Inv.setKeyPrev (hs : Inv s) (k : Word) : Inv (s.setKeyPrev k) := { hs with }

theorem Inv.setEnv (hs : Inv s) (e : Env) : Inv (s.setEnv e) := { hs with }

theorem Inv.setI (hs : Inv s) {w : Word} (hw : w.toNat ≤ 0x0FFF) : Inv (s.setI w) := { hs with index := hw }

theorem Inv.setMem (hs : Inv s) {m : Memory} (hm : Memory.wf s.cfg m = true) : Inv (s.setMem m) :=
  { hs with memory := hm }

theorem Inv.setPc (hs : Inv s) (hcode : s.fault.code = 0) {w : Word} (hw : w.toNat ≤ 0x10FE) : Inv (s.setPc w) :=
  { hs with counter := hw, faulted := fun hne => absurd hcode hne }

theorem Inv.setRun (hs : Inv s) (hcode : s.fault.code = 0) (r : RunState) : Inv (s.setRun r) :=
  { hs with faulted := fun hne => absurd hcode hne }

/-- Push of a return address. -/
theorem Inv.push (hs : Inv s) (hroom : s.sp ≠ s.cfg.stackDepth) {w : Word}
    (hw : 0x0002 ≤ w.toNat ∧ w.toNat ≤ 0x1000) : Inv (s.setStack (s.stack.set s.sp w) (s.sp + 1)) := by
  have hlt : s.sp < s.cfg.stackDepth := Nat.lt_of_le_of_ne hs.depth hroom
  have hlive : (s.stack.set s.sp w).take (s.sp + 1) = s.stack.take s.sp ++ [w] := by
    rw [List.take_add_one, List.take_set_of_le (Nat.le_refl _), List.getElem?_set_self (hs.entries ▸ hlt)]
    rfl
  refine { hs with entries := (List.length_set ..).trans hs.entries, depth := hlt, returns := fun u hu => ?_ }
  rcases List.mem_append.1 (hlive ▸ hu) with hold | hnew
  · exact hs.returns u hold
  · exact List.mem_singleton.1 hnew ▸ hw

/-- Pop leaves fewer live entries. -/
theorem Inv.pop (hs : Inv s) : Inv (s.setStack s.stack (s.sp - 1)) :=
  { hs with
    depth := (Nat.sub_le ..).trans hs.depth
    returns := fun w hw => hs.returns w ((List.take_subset_take_left _ (Nat.sub_le ..)) hw) }

/-- The entry that Pop gives is live. -/
theorem Inv.top_le (hs : Inv s) (h : s.sp ≠ 0) : (s.stack.getD (s.sp - 1) 0).toNat ≤ 0x1000 := by
  have hlt : s.sp - 1 < s.stack.length := by have := hs.depth; have := hs.entries; omega
  have hmem : s.stack.getD (s.sp - 1) 0 ∈ s.stack.take s.sp := by
    rw [List.getD_eq_getElem _ _ hlt]
    exact List.mem_take_iff_getElem.2 ⟨s.sp - 1, by omega, rfl⟩
  exact (hs.returns _ hmem).2

theorem Inv.enterFault (hs : Inv s) (f : Fault) (w : Word) : Inv (enterFault f s.pc w s) :=
  { hs with
    codes := (faultCode_pos f).2
    faulted := fun _ => ⟨rfl, rfl⟩
    unfaulted := fun h => absurd h (faultCode_pos f).1 }

/-- A skipped word is recorded under UNIMPL_HALT = 0 only. -/
theorem Inv.setUnimpl (hs : Inv s) (h : ¬s.straps.unimplHalt = true) (a w : Word) :
    Inv (s.setUnimpl { seen := true, pc := a, insn := w }) :=
  { hs with
    unseen := fun hseen => absurd hseen Bool.noConfusion
    haltPolicy := fun hp => absurd hp h }

/-! ### The invariant under the events -/

theorem Inv.initState {cfg : Config} (h : cfg.wf = true) (rom : List Byte) (straps : Straps) (env : Env) :
    Inv (initState cfg rom straps env) where
  config := h
  memory := Memory.wf_load cfg [] rom 0x200 (by decide) rfl
  index := Nat.zero_le _
  counter := show (0x0200 : Word).toNat ≤ 0x10FE by decide
  entries := List.length_replicate
  depth := Nat.zero_le _
  returns := fun _ hw => absurd hw List.not_mem_nil
  codes := Nat.zero_le _
  faulted := fun hne => absurd rfl hne
  unfaulted := fun _ => ⟨rfl, rfl⟩
  unseen := fun _ => ⟨rfl, rfl⟩
  haltPolicy := fun _ => rfl

/-- Settles O15: the state after reset is Reset with an empty `rom` (log 5). -/
theorem resetMeetsInvariant : Obligations.ResetMeetsInvariant :=
  Inv.initState (cfg := Config.standard) (by decide) [] Straps.standard Env.initial

theorem Inv.ticks (hs : Inv s) (k : Nat) : Inv (ticks k s) := (hs.setDt _).setSt _

theorem Inv.keySample (hs : Inv s) (keys : Word) : Inv (keySample keys s) := by
  rcases keySample_cases keys s with ⟨-, h⟩ | ⟨-, -, h⟩ | ⟨hr, k, -, -, h⟩ <;> rw [h]
  · exact hs
  · exact hs.setKeyPrev keys
  · have hcode : s.fault.code = 0 := hs.code_eq_zero (by rw [hr]; decide)
    exact ((hs.setReg _ _).setRun hcode .running).setKeyPrev keys

theorem Inv.stop (hs : Inv s) : Inv (stop s) := by
  unfold Machine.stop
  split
  · exact hs
  · exact hs.setRun (hs.code_eq_zero ‹_›) .halted

theorem Inv.unlistedInputs (hs : Inv s) : Inv (unlistedInputs s) :=
  ((hs.ticks _).keySample _).setEnv _

/-! ### The invariant under a Step -/

/-- The advance does not wrap where a word can be fetched: a return address is at most 0x1000
(`41_control_flow.md` R100). -/
theorem add_two_toNat {a : Word} (h : a.toNat ≤ 0x0FFE) : (a + 2).toNat = a.toNat + 2 := by
  bv_omega

theorem Inv.advance (hs : Inv s) (hcode : s.fault.code = 0) (hpc : s.pc.toNat ≤ 0x0FFE) : Inv s.advance :=
  hs.setPc hcode (by rw [add_two_toNat hpc]; omega)

/-- An instruction on a Running core keeps the invariant, whatever its effect. -/
theorem Inv.of_effect {i : Instr} {t : State} (hs : Inv s) (hrun : s.run = .running) (hpc : s.pc.toNat ≤ 0x0FFE)
    (e : Effect s i t) : Inv t := by
  have hcode : s.fault.code = 0 := hs.code_eq_zero (by rw [hrun]; decide)
  have ha : Inv s.advance := hs.advance hcode hpc
  have hret : (s.pc + 2).toNat = s.pc.toNat + 2 := add_two_toNat hpc
  have hskip : (s.pc + 4).toNat ≤ 0x10FE := by bv_omega
  cases e with
  | fault _ => exact hs.enterFault _ _
  | regs v _ => exact ha.setRegs v
  | skip c => exact hs.setPc hcode (by cases c <;> simp only [Bool.false_eq_true, if_true, if_false] <;> omega)
  | jp nnn => exact hs.setPc hcode (by have := zextAddr_le nnn; omega)
  | jpV0 nnn => exact hs.setPc hcode (by rw [computedTarget_toNat]; omega)
  | ret hsp => exact hs.pop.setPc hcode ((hs.top_le hsp).trans (by decide))
  | call nnn hroom =>
    exact (hs.push hroom (w := s.pc + 2) (by omega)).setPc hcode ((zextAddr_le nnn).trans (by decide))
  | cls => exact ha.setFb _
  | drw x y n => exact (ha.setFb _).setRegs _
  | index w _ hw => exact ha.setI (hw hs.config)
  | store bs _ hb => exact ha.setMem (Memory.wf_writeBlock s.cfg bs s.mem s.i.toNat hb hs.memory)
  | ldVxK x => exact ((ha.setWaitX x).setKeyPrev _).setRun hcode .awaitingKey
  | ldDtVx x => exact ha.setDt _
  | ldStVx x => exact ha.setSt _

/-- An unassigned word halts or is skipped (`60_exceptions.md` R176). -/
theorem Inv.unassignedOpcode (hs : Inv s) (hrun : s.run = .running) (hpc : s.pc.toNat ≤ 0x0FFE) (w : Word) :
    Inv (unassignedOpcode w s) := by
  unfold Machine.unassignedOpcode
  split
  · exact hs.enterFault _ w
  · exact (hs.advance (hs.code_eq_zero (by rw [hrun]; decide)) hpc).setUnimpl ‹_› s.pc w

theorem Inv.cycle {t : State} (hs : Inv s) (h : cycle s = .next t) : Inv t := by
  rcases cycle_cases s with ⟨-, hc⟩ | ⟨-, -, hc⟩ | ⟨hrun, hpc, -, hc⟩ | ⟨hrun, hpc, i, -, hc⟩ <;> rw [hc] at h
  · cases h; exact hs
  · cases h; exact hs.enterFault _ _
  · cases h; exact hs.unassignedOpcode hrun hpc _
  · exact hs.of_effect hrun hpc (effect_of_exec h)

theorem Inv.applyEvent {e : HostEvent} {t : State} (hs : Inv s) (h : applyEvent e s = .next t) : Inv t := by
  cases e with
  | step keys rnd => exact (hs.setEnv _).cycle h
  | reset rom straps => cases h; exact Inv.initState hs.config rom straps s.env
  | tick => cases h; exact (hs.setDt _).setSt _
  | keySample keys => cases h; exact hs.keySample keys
  | stop => cases h; exact hs.stop

/-- Settles O16: a step is a listed event, or a free period that ends in a Step. -/
theorem stepKeepsInvariant : Obligations.StepKeepsInvariant := by
  intro s t hs h
  obtain ⟨-, ⟨e, rest, -, happly⟩ | ⟨-, hcycle⟩⟩ := step_cases h
  · exact (hs.setEnv _).applyEvent happly
  · exact hs.unlistedInputs.cycle hcycle

/-! ### Reset -/

theorem romLoaded_eq (cfg : Config) (rom : List Byte) : romLoaded cfg rom = min rom.length 3584 :=
  (List.length_take ..).trans (Nat.min_comm ..)

/-- MEM after Reset: the loaded bytes of `rom`, over the font and the zeroes. -/
theorem byteAt_resetState (rom : List Byte) (straps : Straps) (s : State) (a : Nat) :
    (resetState rom straps s).byteAt a =
      if 0x200 ≤ a ∧ a < 0x200 + min rom.length 3584 then rom.getD (a - 0x200) 0 else Memory.base s.cfg a := by
  change Memory.read s.cfg (Memory.writeBlock s.cfg [] 0x200 (rom.take 3584)) a = _
  rw [Memory.read_writeBlock, List.length_take, Nat.min_comm]
  refine ite_congr rfl (fun ha => ?_) (fun _ => rfl)
  rw [List.getD_eq_getElem?_getD, List.getD_eq_getElem?_getD, List.getElem?_take_of_lt (by omega)]

theorem base_font (cfg : Config) {k : Nat} (hk : k < 80) :
    Memory.base cfg (cfg.fontBase + k) = cfg.font.getD k 0 := by
  rw [Memory.base, if_pos (by omega), Nat.add_sub_cancel_left]

theorem base_outside_font (cfg : Config) {a : Nat} (ha : a < cfg.fontBase ∨ cfg.fontBase + 80 ≤ a) :
    Memory.base cfg a = 0 :=
  if_neg (by omega)

theorem reg_resetState (rom : List Byte) (straps : Straps) (s : State) (r : Reg) :
    (resetState rom straps s).reg r = 0 := by
  simp [resetState, initState, State.reg, Vector.get_eq_getElem]

/-- Settles O50: the registers are those of `initState`; each region of MEM is read off `byteAt_resetState`, and an
accepted configuration keeps the font below 0x200. -/
theorem resetSetsEveryPiece : Obligations.ResetSetsEveryPiece := by
  intro s rom straps hcfg
  have hbase := fontBase_le hcfg
  refine ⟨resetState rom straps s, rfl, reg_resetState rom straps s, rfl, rfl, rfl, rfl, rfl, rfl,
    pixel_blankScreen, rfl, rfl, rfl, rfl, rfl, rfl, rfl, rfl, fun k hrom hk => ?_, fun k hk => ?_, fun a ha => ?_,
    romLoaded_eq s.cfg rom⟩ <;> rw [byteAt_resetState]
  · rw [if_pos (by omega), Nat.add_sub_cancel_left]
  · rw [if_neg (by omega), base_font s.cfg hk]
  · rw [if_neg (by omega), base_outside_font s.cfg (by omega)]

end Sys2Proof

/-! ### The memory primitives

What a checked primitive answers in bounds and above, as an equation, from the `_cases` lemmas of the operations. -/

namespace Sys2Proof.Machine

/-! #### Equations of the primitives -/

theorem inBounds_one_iff (a : Nat) : inBounds a 1 = true ↔ a ≤ 0xFFF := by
  rw [inBounds_iff]
  omega

theorem memRead_one_ok (s : State) {a : Nat} (ha : a ≤ 0xFFF) : memRead s a 1 = .ok [s.byteAt a] :=
  if_pos ((inBounds_one_iff a).2 ha)

theorem memRead_one_fault (s : State) {a : Nat} (ha : 0xFFF < a) : memRead s a 1 = .error .addressError :=
  if_neg (mt (inBounds_one_iff a).1 ha.not_ge)

theorem memWrite_one_ok (s : State) {a : Nat} (ha : a ≤ 0xFFF) (b : Byte) :
    memWrite s a [b] = .ok (s.setMem (Memory.writeBlock s.cfg s.mem a [b])) :=
  if_pos ((inBounds_one_iff a).2 ha)

theorem memWrite_one_fault (s : State) {a : Nat} (ha : 0xFFF < a) (b : Byte) :
    memWrite s a [b] = .error .addressError :=
  if_neg (mt (inBounds_one_iff a).1 ha.not_ge)

theorem memRead16_ok (s : State) {a : Nat} (ha : a + 1 ≤ 0xFFF) :
    memRead16 s a = .ok (wordOfBytes (s.byteAt a) (s.byteAt (a + 1))) :=
  ((memRead16_cases s a).resolve_right fun h => h.1.not_ge ha).2

theorem memRead16_fault (s : State) {a : Nat} (ha : 0xFFF < a + 1) : memRead16 s a = .error .addressError :=
  ((memRead16_cases s a).resolve_left fun h => ha.not_ge h.1).2

/-! #### The bytes that the primitives give -/

/-- MEM after a one-byte write. -/
theorem byteAt_writeByte (s : State) (a c : Nat) (b : Byte) :
    (s.setMem (Memory.writeBlock s.cfg s.mem a [b])).byteAt c = if c = a then b else s.byteAt c := by
  rw [byteAt_writeBlock]
  by_cases hc : c = a
  · subst hc
    simp
  · rw [if_neg hc, if_neg (by simp only [List.length_singleton]; omega)]

/-- Big-endian: the first byte is the high one (`20_memory.md` R44). -/
theorem wordOfBytes_toNat (hi lo : Byte) : (wordOfBytes hi lo).toNat = 0x100 * hi.toNat + lo.toNat :=
  (toNat_append_eq hi lo).trans (by omega)

/-- Settles O6: the three primitives in bounds and above, and the byte map after a write. -/
theorem checkedMemoryPrimitives : Obligations.CheckedMemoryPrimitives := by
  intro s a b
  refine ⟨fun ha => ⟨memRead_one_fault s ha, memWrite_one_fault s ha b⟩, fun ha => ?_, memRead16_fault s,
    fun ha => ⟨_, memRead16_ok s ha, wordOfBytes_toNat _ _⟩⟩
  refine ⟨memRead_one_ok s ha, _, memWrite_one_ok s ha b, ?_, fun c hc => ?_, rfl⟩
  · rw [byteAt_writeByte, if_pos rfl]
  · rw [byteAt_writeByte, if_neg hc]

/-! ### FX55 and the fetch -/

/-- FX55 stores V[k] at I + k, for k up to X (`43_index_memory.md` R134). -/
theorem byteAt_of_exec_ldMemVx {s t : State} {x k : Reg} (hfit : indexAddress s + x.val ≤ 0xFFF)
    (hexec : exec (.ldMemVx x) s = .next t) (hk : k.val ≤ x.val) :
    t.byteAt (indexAddress s + k.val) = s.reg k := by
  rw [exec_ldMemVx_ok x s hfit] at hexec
  cases hexec
  have hstored := byteAt_writeBlock s.advance (indexAddress s) (indexAddress s + k.val) (regBlock x s)
  rw [regBlock_length, if_pos (by omega), Nat.add_sub_cancel_left, regBlock_getD x s k hk] at hstored
  exact hstored

/-- Settles O39: the fetch reads the two bytes that FX55 stored at I + k and I + k + 1. -/
theorem storedBytesAreFetched : Obligations.StoredBytesAreFetched := by
  intro s t x k l a hfit hexec hl hlx ha
  have hhi : t.byteAt a.toNat = s.reg k := ha ▸ byteAt_of_exec_ldMemVx hfit hexec (by omega)
  have hlo : t.byteAt (a.toNat + 1) = s.reg l := by
    rw [ha, Nat.add_assoc, ← hl]
    exact byteAt_of_exec_ldMemVx hfit hexec hlx
  calc fetch { t with pc := a }
      = .ok (wordOfBytes (t.byteAt a.toNat) (t.byteAt (a.toNat + 1))) :=
        memRead16_ok { t with pc := a } (show a.toNat + 1 ≤ 0xFFF by omega)
    _ = .ok (wordOfBytes (s.reg k) (s.reg l)) := by rw [hhi, hlo]

end Sys2Proof.Machine

/-! ### Decoding and encoding

Each direction is one case analysis: `decode_encode` over the instructions by format, `encode_of_decode` over the
groups of the decoder. `decode_eq_some_iff` says both at once. -/

namespace Sys2Proof

/-! #### From an instruction to its word and back -/

/-- The fields of each format give the operands again (`30_encoding.md` R62, R65). -/
theorem decode_encode (i : Instr) : decode (encode i) = some i := by
  cases i
  case cls | ret => decide
  case jp | call | ldINnn | jpV0 => simp [encode, decode]
  case seVxNn | sneVxNn | ldVxNn | addVxNn | rnd => simp [encode, decode]
  case seVxVy | sneVxVy | drw => simp [encode, decode]
  case skp | sknp => simp [encode, decode]
  case ldVxVy | or | and | xor | addVxVy | sub | shr | subn | shl => simp [encode, decode, decodeGroup8]
  case ldVxDt | ldVxK | ldDtVx | ldStVx | addIVx | ldFVx | ldBVx | ldMemVx | ldVxMem =>
    simp [encode, decode, decodeGroupF]

theorem decodeBytes_encodeBytes (i : Instr) (rest : List Byte) :
    decodeBytes (encodeBytes i ++ rest) = .ok (i, rest) := by
  simp [encodeBytes, bytesOfWord, decodeBytes, decode_encode]

/-- Settles O1: the operand types leave no instruction out, so `wf` is not needed. -/
theorem decodeInvertsEncode : Obligations.DecodeInvertsEncode :=
  fun i rest _ => ⟨decode_encode i, decodeBytes_encodeBytes i rest⟩

/-! #### From a word to its instruction and back -/

section
variable {w : Word} {i : Instr} {g n : BitVec 4} {nn : Byte}

theorem formatA_eq_of_group (hg : (fieldG w).toNat = g.toNat) : formatA g (fieldNNN w) = w :=
  BitVec.eq_of_toNat_eq hg ▸ formatA_of_fields w

theorem formatXK_eq_of_group (hg : (fieldG w).toNat = g.toNat) (hn : fieldNN w = nn) :
    formatXK g (fieldX w) nn = w :=
  BitVec.eq_of_toNat_eq hg ▸ hn ▸ formatXK_of_fields w

theorem formatXYN_eq_of_group (hg : (fieldG w).toNat = g.toNat) (hn : (fieldN w).toNat = n.toNat) :
    formatXYN g (fieldX w) (fieldY w) n = w :=
  BitVec.eq_of_toNat_eq hg ▸ BitVec.eq_of_toNat_eq hn ▸ formatXYN_of_fields w

theorem encode_of_decodeGroup8 (hg : (fieldG w).toNat = 0x8) (h : decodeGroup8 w = some i) : encode i = w := by
  unfold decodeGroup8 at h
  split at h
  case h_10 => cases h
  all_goals
    cases h
    exact formatXYN_eq_of_group hg ‹_›

theorem encode_of_decodeGroupF (hg : (fieldG w).toNat = 0xF) (h : decodeGroupF w = some i) : encode i = w := by
  simp only [decodeGroupF] at h
  split_ifs at h <;> cases h <;> exact formatXK_eq_of_group hg ‹_›

theorem encode_of_decode (h : decode w = some i) : encode i = w := by
  unfold decode at h
  split at h
  case h_1 => split_ifs at h with hcls hret <;> cases h <;> simp only [encode, *]
  case h_2 hg | h_3 hg | h_11 hg | h_12 hg => cases h; exact formatA_eq_of_group hg
  case h_4 hg | h_5 hg | h_7 hg | h_8 hg | h_13 hg => cases h; exact formatXK_eq_of_group hg rfl
  case h_6 hg | h_10 hg =>
    split_ifs at h with hn
    cases h
    exact formatXYN_eq_of_group hg (congrArg BitVec.toNat hn)
  case h_9 hg => exact encode_of_decodeGroup8 hg h
  case h_14 hg => cases h; exact formatXYN_eq_of_group hg rfl
  case h_15 hg => split_ifs at h with hskp hsknp <;> cases h <;> exact formatXK_eq_of_group hg ‹_›
  case h_16 hg => exact encode_of_decodeGroupF hg h
  case h_17 => cases h

/-- One meaning per assigned word (`30_encoding.md` R65). -/
theorem decode_eq_some_iff : decode w = some i ↔ encode i = w :=
  ⟨encode_of_decode, fun h => h ▸ decode_encode i⟩

end

/-- Settles O2, by the groups of the decoder. -/
theorem encodeInvertsDecode : Obligations.EncodeInvertsDecode := fun _ _ => encode_of_decode

/-! #### The rows of the opcode map -/

/-- Every word that matches the row decodes to an instruction of the row. -/
def OpcodeRow.IsDecoded (r : OpcodeRow) : Prop :=
  ∀ w, r.matches w = true → ∃ i, decode w = some i ∧ i.mnemonic = r.mnemonic

section
variable {w m p : Word}

/-- Where the mask has only ones, a matching word has the bits of the pattern. -/
theorem extractLsb'_eq_of_and {start len : Nat} (hw : w &&& m = p)
    (hm : m.extractLsb' start len = BitVec.allOnes len) : w.extractLsb' start len = p.extractLsb' start len := by
  rw [← hw, BitVec.extractLsb'_and, hm, BitVec.and_allOnes]

theorem fieldG_eq_of_and (hw : w &&& m = p) (hm : fieldG m = BitVec.allOnes 4) :
    (fieldG w).toNat = (fieldG p).toNat :=
  congrArg BitVec.toNat (extractLsb'_eq_of_and hw hm)

theorem fieldN_eq_of_and (hw : w &&& m = p) (hm : fieldN m = BitVec.allOnes 4) :
    (fieldN w).toNat = (fieldN p).toNat :=
  congrArg BitVec.toNat (extractLsb'_eq_of_and hw hm)

theorem fieldNN_eq_of_and (hw : w &&& m = p) (hm : fieldNN m = BitVec.allOnes 8) : fieldNN w = fieldNN p :=
  extractLsb'_eq_of_and hw hm

end

namespace OpcodeRow.IsDecoded

variable {name : String} {p : Word}

/-- A row is decoded when the words that match it are words of its instructions. -/
theorem of_encode {mask : Word} (h : ∀ w, w &&& mask = p → ∃ i, encode i = w ∧ i.mnemonic = name) :
    IsDecoded ⟨name, p, mask⟩ :=
  fun w hw => (h w (of_decide_eq_true hw)).imp fun _ hi => ⟨decode_eq_some_iff.2 hi.1, hi.2⟩

/-- A row without operands. -/
theorem of_fixed (i : Instr) (h : encode i = p ∧ i.mnemonic = name) : IsDecoded ⟨name, p, 0xFFFF⟩ :=
  of_encode fun _ hw => ⟨i, h.1.trans (hw.symm.trans BitVec.and_allOnes), h.2⟩

/-- Format A: G is fixed. -/
theorem of_formatA (f : BitVec 12 → Instr)
    (h : ∀ nnn, encode (f nnn) = formatA (fieldG p) nnn ∧ (f nnn).mnemonic = name) :
    IsDecoded ⟨name, p, 0xF000⟩ :=
  of_encode fun w hw =>
    ⟨f (fieldNNN w), (h _).1.trans (formatA_eq_of_group (fieldG_eq_of_and hw (by decide))), (h _).2⟩

/-- Format XK: G is fixed. -/
theorem of_formatXK (f : Reg → Byte → Instr)
    (h : ∀ x nn, encode (f x nn) = formatXK (fieldG p) x nn ∧ (f x nn).mnemonic = name) :
    IsDecoded ⟨name, p, 0xF000⟩ :=
  of_encode fun w hw =>
    ⟨f (fieldX w) (fieldNN w),
      (h _ _).1.trans (formatXK_eq_of_group (fieldG_eq_of_and hw (by decide)) rfl), (h _ _).2⟩

/-- Format XYN: G is fixed. -/
theorem of_formatXYN (f : Reg → Reg → BitVec 4 → Instr)
    (h : ∀ x y n, encode (f x y n) = formatXYN (fieldG p) x y n ∧ (f x y n).mnemonic = name) :
    IsDecoded ⟨name, p, 0xF000⟩ :=
  of_encode fun w hw =>
    ⟨f (fieldX w) (fieldY w) (fieldN w),
      (h _ _ _).1.trans (formatXYN_eq_of_group (fieldG_eq_of_and hw (by decide)) rfl), (h _ _ _).2⟩

/-- Format XY: G and N are fixed. -/
theorem of_formatXY (f : Reg → Reg → Instr)
    (h : ∀ x y, encode (f x y) = formatXYN (fieldG p) x y (fieldN p) ∧ (f x y).mnemonic = name) :
    IsDecoded ⟨name, p, 0xF00F⟩ :=
  of_encode fun w hw =>
    ⟨f (fieldX w) (fieldY w),
      (h _ _).1.trans
        (formatXYN_eq_of_group (fieldG_eq_of_and hw (by decide)) (fieldN_eq_of_and hw (by decide))), (h _ _).2⟩

/-- Format XS: G and NN are fixed. -/
theorem of_formatXS (f : Reg → Instr)
    (h : ∀ x, encode (f x) = formatXK (fieldG p) x (fieldNN p) ∧ (f x).mnemonic = name) :
    IsDecoded ⟨name, p, 0xF0FF⟩ :=
  of_encode fun w hw =>
    ⟨f (fieldX w),
      (h _).1.trans
        (formatXK_eq_of_group (fieldG_eq_of_and hw (by decide)) (fieldNN_eq_of_and hw (by decide))), (h _).2⟩

end OpcodeRow.IsDecoded

theorem opcodeRowsLow_isDecoded : ∀ r ∈ opcodeRowsLow, r.IsDecoded := by
  simp only [opcodeRowsLow, List.forall_mem_cons]
  exact ⟨.of_fixed .cls ⟨rfl, rfl⟩, .of_fixed .ret ⟨rfl, rfl⟩, .of_formatA .jp fun _ => ⟨rfl, rfl⟩,
    .of_formatA .call fun _ => ⟨rfl, rfl⟩, .of_formatXK .seVxNn fun _ _ => ⟨rfl, rfl⟩,
    .of_formatXK .sneVxNn fun _ _ => ⟨rfl, rfl⟩, .of_formatXY .seVxVy fun _ _ => ⟨rfl, rfl⟩,
    .of_formatXK .ldVxNn fun _ _ => ⟨rfl, rfl⟩, .of_formatXK .addVxNn fun _ _ => ⟨rfl, rfl⟩,
    List.forall_mem_nil _⟩

theorem opcodeRowsMid_isDecoded : ∀ r ∈ opcodeRowsMid, r.IsDecoded := by
  simp only [opcodeRowsMid, List.forall_mem_cons]
  exact ⟨.of_formatXY .ldVxVy fun _ _ => ⟨rfl, rfl⟩, .of_formatXY .or fun _ _ => ⟨rfl, rfl⟩,
    .of_formatXY .and fun _ _ => ⟨rfl, rfl⟩, .of_formatXY .xor fun _ _ => ⟨rfl, rfl⟩,
    .of_formatXY .addVxVy fun _ _ => ⟨rfl, rfl⟩, .of_formatXY .sub fun _ _ => ⟨rfl, rfl⟩,
    .of_formatXY .shr fun _ _ => ⟨rfl, rfl⟩, .of_formatXY .subn fun _ _ => ⟨rfl, rfl⟩,
    .of_formatXY .shl fun _ _ => ⟨rfl, rfl⟩, .of_formatXY .sneVxVy fun _ _ => ⟨rfl, rfl⟩,
    .of_formatA .ldINnn fun _ => ⟨rfl, rfl⟩, .of_formatA .jpV0 fun _ => ⟨rfl, rfl⟩,
    .of_formatXK .rnd fun _ _ => ⟨rfl, rfl⟩, .of_formatXYN .drw fun _ _ _ => ⟨rfl, rfl⟩, List.forall_mem_nil _⟩

theorem opcodeRowsHigh_isDecoded : ∀ r ∈ opcodeRowsHigh, r.IsDecoded := by
  simp only [opcodeRowsHigh, List.forall_mem_cons]
  exact ⟨.of_formatXS .skp fun _ => ⟨rfl, rfl⟩, .of_formatXS .sknp fun _ => ⟨rfl, rfl⟩,
    .of_formatXS .ldVxDt fun _ => ⟨rfl, rfl⟩, .of_formatXS .ldVxK fun _ => ⟨rfl, rfl⟩,
    .of_formatXS .ldDtVx fun _ => ⟨rfl, rfl⟩, .of_formatXS .ldStVx fun _ => ⟨rfl, rfl⟩,
    .of_formatXS .addIVx fun _ => ⟨rfl, rfl⟩, .of_formatXS .ldFVx fun _ => ⟨rfl, rfl⟩,
    .of_formatXS .ldBVx fun _ => ⟨rfl, rfl⟩, .of_formatXS .ldMemVx fun _ => ⟨rfl, rfl⟩,
    .of_formatXS .ldVxMem fun _ => ⟨rfl, rfl⟩, List.forall_mem_nil _⟩

theorem opcodeRows_isDecoded : ∀ r ∈ opcodeRows, r.IsDecoded :=
  List.forall_mem_append.2
    ⟨List.forall_mem_append.2 ⟨opcodeRowsLow_isDecoded, opcodeRowsMid_isDecoded⟩, opcodeRowsHigh_isDecoded⟩

theorem opcodeRows_mnemonic_nodup : (opcodeRows.map OpcodeRow.mnemonic).Nodup := by decide

/-- The decoder is a function and the mnemonics differ, so no word matches two rows. -/
theorem opcodeRow_eq_of_matches {w : Word} {r r' : OpcodeRow} (hr : r ∈ opcodeRows) (hr' : r' ∈ opcodeRows)
    (h : r.matches w = true) (h' : r'.matches w = true) : r = r' := by
  obtain ⟨i, hi, hm⟩ := opcodeRows_isDecoded r hr w h
  obtain ⟨i', hi', hm'⟩ := opcodeRows_isDecoded r' hr' w h'
  obtain rfl : i = i' := Option.some.inj (hi.symm.trans hi')
  exact List.inj_on_of_nodup_map opcodeRows_mnemonic_nodup hr hr' (hm.symm.trans hm')

/-- The family RowMatch as one statement. -/
theorem encode_matches_row (i : Instr) :
    ∃ r ∈ opcodeRows, r.mnemonic = i.mnemonic ∧ r.matches (encode i) = true := by
  cases i
  exacts [Laws.RowMatch.cls, Laws.RowMatch.ret, Laws.RowMatch.jp _, Laws.RowMatch.call _,
    Laws.RowMatch.seVxNn _ _, Laws.RowMatch.sneVxNn _ _, Laws.RowMatch.seVxVy _ _, Laws.RowMatch.ldVxNn _ _,
    Laws.RowMatch.addVxNn _ _, Laws.RowMatch.ldVxVy _ _, Laws.RowMatch.or _ _, Laws.RowMatch.and _ _,
    Laws.RowMatch.xor _ _, Laws.RowMatch.addVxVy _ _, Laws.RowMatch.sub _ _, Laws.RowMatch.shr _ _,
    Laws.RowMatch.subn _ _, Laws.RowMatch.shl _ _, Laws.RowMatch.sneVxVy _ _, Laws.RowMatch.ldINnn _,
    Laws.RowMatch.jpV0 _, Laws.RowMatch.rnd _ _, Laws.RowMatch.drw _ _ _, Laws.RowMatch.skp _,
    Laws.RowMatch.sknp _, Laws.RowMatch.ldVxDt _, Laws.RowMatch.ldVxK _, Laws.RowMatch.ldDtVx _,
    Laws.RowMatch.ldStVx _, Laws.RowMatch.addIVx _, Laws.RowMatch.ldFVx _, Laws.RowMatch.ldBVx _,
    Laws.RowMatch.ldMemVx _, Laws.RowMatch.ldVxMem _]

/-- Settles O3: every row is decoded, and a decoded word is the word of its instruction, which matches its row. -/
theorem decodeFollowsOpcodeRows : Obligations.DecodeFollowsOpcodeRows :=
  ⟨rfl, fun _ _ _ hr hr' h h' => opcodeRow_eq_of_matches hr hr' h h',
    fun _ i h => encode_of_decode h ▸ encode_matches_row i,
    fun w r hr h => opcodeRows_isDecoded r hr w h⟩

/-! #### The unassigned words -/

theorem decodeGroup8_eq_none_iff (w : Word) :
    decodeGroup8 w = none ↔ w.toNat % 0x10 ∈ [0x8, 0x9, 0xA, 0xB, 0xC, 0xD, 0xF] := by
  rw [← fieldN_toNat]
  have hlt := (fieldN w).isLt
  unfold decodeGroup8
  split
  case h_10 =>
    simp only [imp_false, List.mem_cons, List.not_mem_nil, or_false, true_iff] at *
    omega
  all_goals simp [*]

theorem decodeGroupF_eq_none_iff (w : Word) :
    decodeGroupF w = none ↔ w.toNat % 0x100 ∉ [0x07, 0x0A, 0x15, 0x18, 0x1E, 0x29, 0x33, 0x55, 0x65] := by
  simp [decodeGroupF, ← fieldNN_toNat, ← BitVec.toNat_inj, ite_eq_iff]

/-- Settles O4, by the groups of the decoder: in each, the fields that it tests as numbers. -/
theorem unassignedWordsAreThoseOfTheTable : Obligations.UnassignedWordsAreThoseOfTheTable := by
  intro w
  rw [← decodeGroup8_eq_none_iff, ← decodeGroupF_eq_none_iff, ← fieldG_toNat, ← fieldN_toNat, ← fieldNN_toNat]
  have hlt := (fieldG w).isLt
  unfold decode
  split
  -- groups 1 to 4, 6, 7 and A to D, where every word is assigned
  case h_2 hg | h_3 hg | h_4 hg | h_5 hg | h_7 hg | h_8 hg | h_11 hg | h_12 hg | h_13 hg | h_14 hg => simp [hg]
  case h_6 hg | h_10 hg => simp [hg, ← BitVec.toNat_inj]
  case h_1 hg | h_15 hg => simp [hg, ← BitVec.toNat_inj, ite_eq_iff]
  case h_9 hg | h_16 hg => simp [hg]
  case h_17 =>
    exfalso
    simp only [imp_false] at *
    omega

/-! #### The words of the vectors -/

/-- Settles O5, by evaluating the decoder on the fourteen words. -/
theorem wordsOfTheVectorsDecode : Obligations.WordsOfTheVectorsDecode := by
  unfold Obligations.WordsOfTheVectorsDecode
  decide

end Sys2Proof

/-! ### The instruction cycle

What one Step does, as an equation for each condition of `cycle_cases`, and what a step does when a Step is listed or
nothing is. The statements about the step are these equations read together. -/

namespace Sys2Proof.Machine

/-! #### Every step answers -/

theorem exec_answers (i : Instr) (s : State) : ∃ t, exec i s = .next t := by
  cases hr : raised i s with
  | some f => exact ⟨_, exec_raised i s f hr⟩
  | none =>
    obtain ⟨t, ht, -⟩ := exec_completes i s hr
    exact ⟨t, ht⟩

theorem cycle_answers (s : State) : ∃ t, cycle s = .next t := by
  rcases cycle_cases s with ⟨-, h⟩ | ⟨-, -, h⟩ | ⟨-, -, -, h⟩ | ⟨-, -, i, -, h⟩
  · exact ⟨_, h⟩
  · exact ⟨_, h⟩
  · exact ⟨_, h⟩
  · exact h ▸ exec_answers i s

theorem applyEvent_answers (e : HostEvent) (s : State) : ∃ t, applyEvent e s = .next t := by
  cases e with
  | step keys rnd => exact cycle_answers _
  | reset | tick | keySample | stop => exact ⟨_, rfl⟩

/-- Settles O14: every event of an accepted configuration answers, listed or not. -/
theorem stepAlwaysAnswers : Obligations.StepAlwaysAnswers := by
  refine fun s => ⟨fun hcfg => ?_, fun hcfg => if_neg (by simp [hcfg])⟩
  cases hp : s.env.pending with
  | nil => exact step_of_unlisted s hcfg hp ▸ cycle_answers _
  | cons e rest => exact step_of_pending s e rest hcfg hp ▸ applyEvent_answers e _

/-! #### The cycle, one equation per condition -/

theorem cycle_of_not_running {s : State} (h : s.run ≠ .running) : cycle s = .next s :=
  if_neg h

theorem cycle_of_fetch_fault {s : State} (hrun : s.run = .running) (hpc : 0xFFE < s.pc.toNat) :
    cycle s = .next (enterFault .addressError s.pc 0x0000 s) := by
  rcases cycle_cases s with ⟨h, -⟩ | ⟨-, -, h⟩ | ⟨-, h, -⟩ | ⟨-, h, -⟩
  · exact absurd hrun h
  · exact h
  · exact absurd h hpc.not_ge
  · exact absurd h hpc.not_ge

theorem cycle_of_decode {s : State} {i : Instr} (hrun : s.run = .running) (hpc : s.pc.toNat ≤ 0xFFE)
    (hi : decode (wordAtPc s) = some i) : cycle s = exec i s := by
  rcases cycle_cases s with ⟨h, -⟩ | ⟨-, h, -⟩ | ⟨-, -, h, -⟩ | ⟨-, -, j, hj, h⟩
  · exact absurd hrun h
  · exact absurd hpc h.not_ge
  · exact absurd (h.symm.trans hi) nofun
  · obtain rfl : j = i := Option.some.inj (hj.symm.trans hi)
    exact h

/-! #### The step -/

/-- A listed Step is a cycle on the state with the event taken off the list and its inputs sampled. -/
theorem step_of_listed_step {s : State} {keys : Word} {rnd : Byte} {rest : List HostEvent} (hcfg : s.cfg.wf = true)
    (hp : s.env.pending = .step keys rnd :: rest) :
    step s = cycle (s.setEnv { s.env with keys := keys, rnd := rnd, pending := rest }) :=
  step_of_pending s _ rest hcfg hp

theorem keySample_of_running (keys : Word) {s : State} (h : s.run = .running) : keySample keys s = s :=
  if_neg (by rw [h]; decide)

/-- On a Running core the KeySample of an unlisted period does nothing (`45_keypad_timers.md` R154). -/
theorem unlistedInputs_of_running {s : State} (h : s.run = .running) :
    unlistedInputs s =
      (ticks (Config.freeTicks s.env.draws) s).setEnv
        { s.env with
          keys := Config.freeKeys s.env.draws
          rnd := Config.freeRnd s.env.draws
          draws := s.env.draws + 1 } := by
  rw [unlistedInputs_eq, keySample_of_running _ (show (ticks _ s).run = .running from h)]

/-- Settles O8: neither sampling the inputs nor a row of Ticks changes RUN, PC or the word at PC. -/
theorem stepRunsDecodedInstruction : Obligations.StepRunsDecodedInstruction := by
  intro s i keys rnd rest hcfg hrun hpc hi
  refine ⟨fun hp => ?_, fun hp => ?_⟩
  · rw [step_of_listed_step hcfg hp]
    exact cycle_of_decode hrun hpc hi
  · rw [step_of_unlisted s hcfg hp, unlistedInputs_of_running hrun]
    exact cycle_of_decode hrun hpc hi

/-- Settles O9, by the cycle's fetch fault. -/
theorem fetchAboveMemoryFaults : Obligations.FetchAboveMemoryFaults := by
  intro s keys rnd rest hcfg hrun hp hpc
  rw [step_of_listed_step hcfg hp]
  exact cycle_of_fetch_fault hrun hpc

/-- Settles O11, by the cycle's test of RUN. -/
theorem stepOutsideRunningChangesNothing : Obligations.StepOutsideRunningChangesNothing := by
  intro s keys rnd rest hcfg hrun hp
  rw [step_of_listed_step hcfg hp]
  exact cycle_of_not_running hrun

/-- Settles O52: the free values of the period are the witnesses. -/
theorem unlistedStepIsTicksSampleAndStep : Obligations.UnlistedStepIsTicksSampleAndStep := by
  intro s hcfg hp
  refine ⟨Config.freeTicks s.env.draws, Config.freeSample s.env.draws, Config.freeKeys s.env.draws,
    Config.freeRnd s.env.draws, ?_⟩
  rw [step_of_unlisted s hcfg hp, unlistedInputs_eq, ticks_eq_iterate]
  rfl

/-! #### The word that the host puts at PC -/

theorem withFetchWord_cfg_wf (s : State) (nbits w : Nat) : (s.withFetchWord nbits w).cfg.wf = true := by
  change (if s.cfg.wf then s.cfg else Config.standard).wf = true
  split
  · assumption
  · decide

theorem fetchAddress_le (s : State) : (fetchAddress s).toNat ≤ 0xFFE := by
  unfold fetchAddress
  split
  · assumption
  · decide

/-- The two bytes are written high byte first, as the fetch reads them (`20_memory.md` R44). -/
theorem wordAtPc_withFetchWord (s : State) (nbits w : Nat) :
    wordAtPc (s.withFetchWord nbits w) = tableWord nbits w := by
  have hbyte (k : Nat) (hk : k < 2) : (s.withFetchWord nbits w).byteAt ((fetchAddress s).toNat + k) =
      (bytesOfWord (tableWord nbits w)).getD k 0 := by
    refine (Memory.read_writeBlock _ _ _ _ _).trans ?_
    rw [if_pos ⟨Nat.le_add_right .., Nat.add_lt_add_left hk _⟩, Nat.add_sub_cancel_left]
  calc wordAtPc (s.withFetchWord nbits w)
      = wordOfBytes ((bytesOfWord (tableWord nbits w)).getD 0 0) ((bytesOfWord (tableWord nbits w)).getD 1 0) :=
        congrArg₂ wordOfBytes (hbyte 0 (by decide)) (hbyte 1 (by decide))
    _ = tableWord nbits w := wordOfBytes_bytesOfWord _

theorem decodeTableWord_eq (nbits w : Nat) : decodeTableWord nbits w = decode (tableWord nbits w) := by
  simp only [decodeTableWord, bytesOfWord, decodeBytes, wordOfBytes_bytesOfWord]
  cases decode (tableWord nbits w) <;> rfl

/-- Settles O53: the Step that `withFetchWord` lists has the inputs as they stand, so it leaves the environment of
`s`. -/
theorem fetchWordIsRunNext : Obligations.FetchWordIsRunNext := by
  intro s nbits w i hi
  have hdecode : decode (wordAtPc (s.withFetchWord nbits w)) = some i := by
    rw [wordAtPc_withFetchWord, ← decodeTableWord_eq, hi]
  rw [step_of_listed_step (withFetchWord_cfg_wf s nbits w) rfl]
  exact cycle_of_decode rfl (fetchAddress_le s) hdecode

/-! ### The inputs of a Step

Only EX9E, EXA1, FX0A and CXNN read the environment, and no instruction writes it: under another environment with
the inputs that it reads, an instruction does the same (`40_instruction_cycle.md` R89). -/

section Inputs

variable (s : State) (e : Env)

theorem raised_setEnv (i : Instr) : raised i (s.setEnv e) = raised i s := by
  cases i <;> rfl

theorem State.skipIf_setEnv (c : Bool) : (s.setEnv e).skipIf c = (s.skipIf c).setEnv e := by
  cases c <;> rfl

theorem State.setRegsFrom_setEnv (k : Nat) (bs : List Byte) :
    (s.setEnv e).setRegsFrom k bs = (s.setRegsFrom k bs).setEnv e := by
  induction bs generalizing s k with
  | nil => rfl
  | cons b bs ih => exact ih (s.setReg _ b) (k + 1)

end Inputs

theorem keyPressed_setEnv {s : State} {e : Env} (h : e.keys = s.env.keys) (x : Reg) :
    keyPressed x (s.setEnv e) = keyPressed x s := by
  change e.keys.getLsbD _ = s.env.keys.getLsbD _
  rw [h]; rfl

/-- An instruction that completes does the same under another environment with the inputs it reads. -/
theorem exec_setEnv_of_not_raised {i : Instr} {s t : State} {e : Env}
    (hkeys : e.keys = s.env.keys ∨ ∀ x, i ≠ .skp x ∧ i ≠ .sknp x ∧ i ≠ .ldVxK x)
    (hrnd : e.rnd = s.env.rnd ∨ ∀ x nn, i ≠ .rnd x nn) (hr : raised i s = none) (h : exec i s = .next t) :
    exec i (s.setEnv e) = .next (t.setEnv e) := by
  cases i
  -- the instructions that read an input
  case skp x =>
    have hk : e.keys = s.env.keys := hkeys.resolve_right fun hne => (hne x).1 rfl
    rw [exec_skp] at h ⊢
    cases h
    rw [keyPressed_setEnv hk]
    exact congrArg _ (State.skipIf_setEnv s.advance e _)
  case sknp x =>
    have hk : e.keys = s.env.keys := hkeys.resolve_right fun hne => (hne x).2.1 rfl
    rw [exec_sknp] at h ⊢
    cases h
    rw [keyPressed_setEnv hk]
    exact congrArg _ (State.skipIf_setEnv s.advance e _)
  case ldVxK x =>
    have hk : e.keys = s.env.keys := hkeys.resolve_right fun hne => (hne x).2.2 rfl
    rw [exec_ldVxK] at h ⊢
    cases h
    rw [State.setEnv_env, hk]
    rfl
  case rnd x nn =>
    have hb : e.rnd = s.env.rnd := hrnd.resolve_right fun hne => hne x nn rfl
    rw [exec_rnd] at h ⊢
    cases h
    rw [State.setEnv_env, hb]
    rfl
  -- the instructions that read none, and depend on a condition
  case seVxNn | sneVxNn | seVxVy | sneVxVy =>
    cases h
    exact congrArg _ (State.skipIf_setEnv s.advance e _)
  case ret =>
    have hsp : s.sp ≠ 0 := by simpa [raised] using hr
    rw [exec_ret_ok s hsp] at h
    cases h
    exact exec_ret_ok (s.setEnv e) hsp
  case call nnn =>
    have hsp : s.sp ≠ s.cfg.stackDepth := by simpa [raised] using hr
    rw [exec_call_ok nnn s hsp] at h
    cases h
    exact exec_call_ok nnn (s.setEnv e) hsp
  case drw x y n =>
    have hn : n = 0 ∨ s.i.toNat + n.toNat ≤ 0x1000 := by simpa [raised, or_iff_not_imp_left] using hr
    rw [exec_drw_ok x y n s hn] at h
    cases h
    exact exec_drw_ok x y n (s.setEnv e) hn
  case ldBVx x =>
    have hi : s.i.toNat + 2 ≤ 0xFFF := by simpa [raised] using hr
    rw [exec_ldBVx_ok x s hi] at h
    cases h
    exact exec_ldBVx_ok x (s.setEnv e) hi
  case ldMemVx x =>
    have hi : s.i.toNat + x.val ≤ 0xFFF := by simpa [raised] using hr
    rw [exec_ldMemVx_ok x s hi] at h
    cases h
    exact exec_ldMemVx_ok x (s.setEnv e) hi
  case ldVxMem x =>
    have hi : s.i.toNat + x.val ≤ 0xFFF := by simpa [raised] using hr
    rw [exec_ldVxMem_ok x s hi] at h
    cases h
    exact (exec_ldVxMem_ok x (s.setEnv e) hi).trans (congrArg _ (State.setRegsFrom_setEnv s.advance e 0 _))
  -- the instructions with one unconditional result
  all_goals
    cases h
    rfl

/-- Settles O19: a fault depends on the environment no more than a completed instruction does. -/
theorem inputsReachOnlyTheirInstructions : Obligations.InputsReachOnlyTheirInstructions := by
  intro i s t e hkeys hrnd h
  change exec i (s.setEnv e) = .next (t.setEnv e)
  cases hr : raised i s with
  | none => exact exec_setEnv_of_not_raised hkeys hrnd hr h
  | some f =>
    rw [exec_raised i s f hr] at h
    cases h
    exact exec_raised i (s.setEnv e) f ((raised_setEnv s e i).trans hr)

end Sys2Proof.Machine

/-! ### Control flow

Jumps and skips are `setPc`, whose frame is `onlyPcChanges_setPc`; a call and a return change STACK, SP and PC, and
share one frame. -/

namespace Sys2Proof.Machine

/-! #### Jumps -/

/-- Settles O26: the target is `zextAddr`, and a jump is `setPc`. -/
theorem jumpGoesToTarget : Obligations.JumpGoesToTarget := fun s nnn =>
  ⟨formatA_toNat 0x1 nnn, _, exec_jp nnn s, zextAddr_toNat nnn, onlyPcChanges_setPc s _⟩

/-- Settles O31: NNN + V[0] is below 0x10FF, so the 16-bit sum does not wrap. -/
theorem computedJumpAddsVZero : Obligations.ComputedJumpAddsVZero := fun s nnn =>
  ⟨formatA_toNat 0xB nnn, _, exec_jpV0 nnn s, computedTarget_toNat nnn _, onlyPcChanges_setPc s _⟩

/-! #### Skips -/

/-- An instruction that skips by the test `c` goes over one word more exactly when the condition `p` holds that `c`
tests (`41_control_flow.md` section 2). -/
theorem skip_of_exec {i : Instr} {s : State} {c : Bool} {p : Prop} [Decidable p]
    (h : exec i s = .next (s.advance.skipIf c)) (hc : c = true ↔ p) :
    ∃ t, exec i s = .next t ∧ t.pc = (if p then s.pc + 4 else s.pc + 2) ∧ OnlyPcChanges s t := by
  rw [State.advance_skipIf] at h
  exact ⟨_, h, if_congr hc rfl rfl, onlyPcChanges_setPc s _⟩

/-- Settles O30: each of the four is a skip by the test of its condition. -/
theorem skipsFollowTheirConditions : Obligations.SkipsFollowTheirConditions := fun s x y nn =>
  ⟨⟨formatXK_toNat 0x3 x nn, skip_of_exec (exec_seVxNn x nn s) beq_iff_eq⟩,
    ⟨formatXK_toNat 0x4 x nn, skip_of_exec (exec_sneVxNn x nn s) bne_iff_ne⟩,
    ⟨formatXYN_toNat 0x5 x y 0, skip_of_exec (exec_seVxVy x y s) beq_iff_eq⟩,
    ⟨formatXYN_toNat 0x9 x y 0, skip_of_exec (exec_sneVxVy x y s) bne_iff_ne⟩⟩

/-! #### Calls and returns -/

/-- The frame of a call and of a return: all but STACK, SP and PC. -/
theorem keepsAllBut_setStack_setPc {s t : State} {l : List Word} {n : Nat} {w : Word}
    (h : t = (s.setStack l n).setPc w) :
    KeepsRegsBut [] s t ∧ KeepsIndex s t ∧ KeepsTimers s t ∧ KeepsScreen s t ∧ KeepsMemory s t ∧
      KeepsControl s t := by
  subst h
  exact ⟨fun _ _ => rfl, rfl, ⟨rfl, rfl⟩, fun _ _ => rfl, fun _ => rfl, keepsControl_refl s⟩

/-- Settles O27: what the call answers with room on the stack, and with the stack full. -/
theorem callPushesReturnAddress : Obligations.CallPushesReturnAddress := by
  refine fun s nnn => ⟨formatA_toNat 0x2 nnn, fun hroom hlen => ?_, fun hfull => ?_⟩
  · have hpushed : (s.stack.set s.sp (s.pc + 2))[s.sp]? = some (s.pc + 2) := List.getElem?_set_self (hlen ▸ hroom)
    have hothers : ∀ k, k ≠ s.sp → (s.stack.set s.sp (s.pc + 2))[k]? = s.stack[k]? := fun _ hk =>
      List.getElem?_set_ne hk.symm
    exact ⟨_, exec_call_ok nnn s hroom.ne, zextAddr_toNat nnn, rfl, hpushed, hothers,
      keepsAllBut_setStack_setPc rfl⟩
  · exact ⟨_, exec_call_fault nnn s hfull, haltsUnchanged_enterFault _ _ s⟩

/-- Settles O28: what the return answers with an entry on the stack, and with the stack empty. -/
theorem returnPopsReturnAddress : Obligations.ReturnPopsReturnAddress := by
  refine fun s w => ⟨rfl, fun hpos htop => ?_, fun hempty => ?_⟩
  · have hpopped : s.stack.getD (s.sp - 1) 0 = w := by rw [List.getD_eq_getElem?_getD, htop, Option.getD_some]
    exact ⟨_, exec_ret_ok s hpos.ne', hpopped, rfl, rfl, keepsAllBut_setStack_setPc rfl⟩
  · exact ⟨_, exec_ret_fault s hempty, haltsUnchanged_enterFault _ _ s⟩

/-- Settles O29: the return pops the entry that the call pushed. -/
theorem returnComesBackAfterCall : Obligations.ReturnComesBackAfterCall := by
  intro s t t' nnn hroom hlen hcall hsp hstack
  obtain ⟨-, hpush, -⟩ := callPushesReturnAddress s nnn
  obtain ⟨t₀, hcall₀, -, hsp₀, hpushed, -⟩ := hpush hroom hlen
  obtain rfl : t₀ = t := Host.Outcome.next.inj (hcall₀.symm.trans hcall)
  have hdepth : t'.sp = s.sp + 1 := hsp.trans hsp₀
  have htop : t'.stack[t'.sp - 1]? = some (s.pc + 2) := by rw [hdepth, hstack, Nat.add_sub_cancel, hpushed]
  obtain ⟨-, hpop, -⟩ := returnPopsReturnAddress t' (s.pc + 2)
  obtain ⟨u, hret, hpc, hspu, -⟩ := hpop (hdepth ▸ Nat.succ_pos _) htop
  exact ⟨u, hret, hpc, by rw [hspu, hdepth, Nat.add_sub_cancel]⟩

end Sys2Proof.Machine

/-! ### Arithmetic and logic

A load, a copy and a bitwise operation are one register write; an operation with a flag is `setWithFlag`. What each
computes is said once, of the bytes alone, in the arithmetic of the statements. -/

namespace Sys2Proof.Machine

/-! #### Words, results and flags -/

/-- The words 8XYN. -/
theorem formatXYN_group8_toNat (x y : Reg) (n : BitVec 4) :
    (formatXYN 0x8 x y n).toNat = 0x8000 + n.toNat + 0x100 * x.val + 0x10 * y.val := by
  have hword : (formatXYN 0x8 x y n).toNat = 0x8000 + 0x100 * x.val + 0x10 * y.val + n.toNat :=
    formatXYN_toNat 0x8 x y n
  omega

/-- V[X] after a write to V[X]. -/
theorem State.setReg_reg_self (s : State) (x : Reg) (b : Byte) : (s.setReg x b).reg x = b := by
  rw [State.setReg_reg, if_pos rfl]

/-- The difference modulo 256, in natural numbers (`42_alu.md` R117, R123). -/
theorem sub_toNat_byte (a b : Byte) : (a - b).toNat = (a.toNat + 256 - b.toNat) % 256 := by
  have hb := b.isLt
  rw [BitVec.toNat_sub]
  omega

theorem shiftRight_one_toNat_byte (a : Byte) : (a >>> 1).toNat = a.toNat / 2 := by
  rw [BitVec.toNat_ushiftRight, Nat.shiftRight_one]

theorem shiftLeft_one_toNat_byte (a : Byte) : (a <<< 1).toNat = 2 * a.toNat % 256 := by
  rw [BitVec.toNat_shiftLeft, Nat.shiftLeft_eq, Nat.pow_one, Nat.mul_comm]

/-- The flag of a test. -/
theorem flagByte_decide (p : Prop) [Decidable p] : flagByte (decide p) = if p then 1 else 0 := by
  by_cases hp : p
  · rw [decide_eq_true hp, if_pos hp]; rfl
  · rw [decide_eq_false hp, if_neg hp]; rfl

theorem flagByte_toNat (f : Bool) : (flagByte f).toNat = f.toNat := by
  cases f <;> rfl

/-- The bit a right shift moves out is the remainder by 2. -/
theorem flagByte_shiftedOutRight_toNat (a : Byte) : (flagByte (shiftedOutRight a)).toNat = a.toNat % 2 := by
  rw [flagByte_toNat, shiftedOutRight, BitVec.getLsbD, Nat.toNat_testBit, Nat.pow_zero, Nat.div_one]

/-- The bit a left shift moves out is the quotient by 128, a byte being below 256. -/
theorem flagByte_shiftedOutLeft_toNat (a : Byte) : (flagByte (shiftedOutLeft a)).toNat = a.toNat / 128 := by
  have ha := a.isLt
  rw [flagByte_toNat, shiftedOutLeft, BitVec.getLsbD, Nat.toNat_testBit]
  omega

/-! #### Loads, copies and bitwise operations -/

/-- The frame of an instruction that writes V[X] alone. -/
theorem onlyRegsChange_setReg_self (s : State) (x : Reg) (b : Byte) : OnlyRegsChange [x] s (s.advance.setReg x b) :=
  onlyRegsChange_setReg [x] s x b (List.mem_singleton_self x)

/-- Settles O20: each is one register write, and the sum of bytes wraps. -/
theorem immediateLoadAndAdd : Obligations.ImmediateLoadAndAdd := by
  refine fun s x nn => ⟨⟨formatXK_toNat 0x6 x nn, _, exec_ldVxNn x nn s, ?_, onlyRegsChange_setReg_self s x _⟩,
    ⟨formatXK_toNat 0x7 x nn, _, exec_addVxNn x nn s, ?_, onlyRegsChange_setReg_self s x _⟩⟩
  · exact State.setReg_reg_self _ x nn
  · rw [State.setReg_reg_self, BitVec.toNat_add]

/-- Settles O21: each is one register write, whose bits are those of the operands. -/
theorem registerCopyAndLogic : Obligations.RegisterCopyAndLogic := by
  refine fun s x y =>
    ⟨⟨formatXYN_group8_toNat x y 0, _, exec_ldVxVy x y s, ?_, onlyRegsChange_setReg_self s x _⟩,
      ⟨formatXYN_group8_toNat x y 1, _, exec_or x y s, fun k => ?_, onlyRegsChange_setReg_self s x _⟩,
      ⟨formatXYN_group8_toNat x y 2, _, exec_and x y s, fun k => ?_, onlyRegsChange_setReg_self s x _⟩,
      ⟨formatXYN_group8_toNat x y 3, _, exec_xor x y s, fun k => ?_, onlyRegsChange_setReg_self s x _⟩⟩
  · exact State.setReg_reg_self _ x _
  · rw [State.setReg_reg_self, BitVec.getLsbD_or]
  · rw [State.setReg_reg_self, BitVec.getLsbD_and]
  · rw [State.setReg_reg_self, BitVec.getLsbD_xor, Bool.xor]

/-- Settles O25: NN masks the random byte, and a byte masked by NN has no bit outside NN. -/
theorem randomByteIsMasked : Obligations.RandomByteIsMasked := by
  refine fun s x nn => ⟨formatXK_toNat 0xC x nn, _, exec_rnd x nn s, fun k => ?_, ?_,
    onlyRegsChange_setReg_self s x _⟩
  · rw [State.setReg_reg_self, BitVec.getLsbD_and]
  · rw [State.setReg_reg_self, BitVec.and_assoc, BitVec.and_not_self]
    exact BitVec.and_zero

/-! #### Results with a flag -/

/-- An instruction that writes a result and then a flag: the result as a number, the flag, and the frame. -/
theorem resultAndFlag_of_exec {i : Instr} {s : State} {x : Reg} {b : Byte} {f : Bool} {n : Nat}
    (h : exec i s = .next (s.advance.setWithFlag x b f)) (hb : b.toNat = n) :
    ∃ t, exec i s = .next t ∧ (x ≠ 0xF → (t.reg x).toNat = n) ∧ t.reg 0xF = flagByte f ∧
      OnlyRegsChange [x, 0xF] s t :=
  ⟨_, h, fun hx => hb ▸ congrArg BitVec.toNat (State.setWithFlag_result _ x b f hx), State.setWithFlag_flag _ x b f,
    onlyRegsChange_setWithFlag s x b f⟩

/-- Settles O22: the sum wraps, the carry is a test of the sum, and the flag is written last. -/
theorem addSetsCarryLast : Obligations.AddSetsCarryLast := by
  intro s x y
  rw [← flagByte_decide]
  exact ⟨formatXYN_group8_toNat x y 4, resultAndFlag_of_exec (exec_addVxVy x y s) (BitVec.toNat_add _ _)⟩

/-- Settles O23: the difference wraps, no borrow is a test of the operands, and the flag is written last. -/
theorem subtractSetsNoBorrowLast : Obligations.SubtractSetsNoBorrowLast := by
  intro s x y
  rw [← flagByte_decide, ← flagByte_decide]
  exact ⟨⟨formatXYN_group8_toNat x y 5, resultAndFlag_of_exec (exec_sub x y s) (sub_toNat_byte _ _)⟩,
    ⟨formatXYN_group8_toNat x y 7, resultAndFlag_of_exec (exec_subn x y s) (sub_toNat_byte _ _)⟩⟩

/-- Settles O24: the source is `shiftSource`, the bit moved out is a remainder or a quotient, and the flag is
written last. -/
theorem shiftsSetBitMovedOutLast : Obligations.ShiftsSetBitMovedOutLast := by
  intro s x y src hsrc
  obtain rfl : src = shiftSource x y s := hsrc
  obtain ⟨t, hshr, hright, hbit0, hframe⟩ :=
    resultAndFlag_of_exec (exec_shr x y s) (shiftRight_one_toNat_byte (shiftSource x y s))
  obtain ⟨u, hshl, hleft, hbit7, hframe'⟩ :=
    resultAndFlag_of_exec (exec_shl x y s) (shiftLeft_one_toNat_byte (shiftSource x y s))
  have hremainder : (t.reg 0xF).toNat = (shiftSource x y s).toNat % 2 := hbit0 ▸ flagByte_shiftedOutRight_toNat _
  have hquotient : (u.reg 0xF).toNat = (shiftSource x y s).toNat / 128 := hbit7 ▸ flagByte_shiftedOutLeft_toNat _
  exact ⟨⟨formatXYN_group8_toNat x y 6, t, hshr, hright, hremainder, hframe⟩,
    ⟨formatXYN_group8_toNat x y 0xE, u, hshl, hleft, hquotient, hframe'⟩⟩

end Sys2Proof.Machine

/-! ### The index register and memory

An instruction that sets I is `setI`, one that stores is `setMem` of a written block, and FX65 is the block load of
registers; the frame of each is said once. -/

namespace Sys2Proof.Machine

/-- The words FXNN. -/
theorem formatXK_groupF_toNat (x : Reg) (nn : Byte) :
    (formatXK 0xF x nn).toNat = 0xF000 + nn.toNat + 0x100 * x.val := by
  have hword : (formatXK 0xF x nn).toNat = 0xF000 + 0x100 * x.val + nn.toNat := formatXK_toNat 0xF x nn
  omega

/-! #### The index register -/

/-- The frame of an instruction that sets I: all but I, and PC + 2. -/
theorem keepsAllBut_setI {s t : State} {w : Word} (h : t = s.advance.setI w) :
    t.pc = s.pc + 2 ∧ KeepsRegsBut [] s t ∧ KeepsStack s t ∧ KeepsTimers s t ∧ KeepsScreen s t ∧
      KeepsMemory s t ∧ KeepsControl s t := by
  subst h
  exact ⟨rfl, fun _ _ => rfl, ⟨rfl, rfl⟩, ⟨rfl, rfl⟩, fun _ _ => rfl, fun _ => rfl, keepsControl_refl s⟩

/-- The sum is reduced to 12 bits, so the word holds it (`43_index_memory.md` R131). -/
theorem indexPlus_toNat (w : Word) (b : Byte) : (indexPlus w b).toNat = (w.toNat + b.toNat) % 4096 :=
  (BitVec.toNat_ofNat ..).trans (Nat.mod_eq_of_lt (by omega))

/-- In an accepted configuration no glyph address wraps (`10_state.md` R15). -/
theorem glyphAddress_toNat {c : Config} (hc : c.wf = true) (d : Byte) :
    (glyphAddress c d).toNat = c.fontBase + 5 * d.toNat := by
  have hbase := fontBase_le hc
  have hd := d.isLt
  exact (BitVec.toNat_ofNat ..).trans (Nat.mod_eq_of_lt (by omega))

/-- Settles O33: each sets I, to NNN as a word and to the sum reduced to 12 bits. -/
theorem indexLoadAndAdd : Obligations.IndexLoadAndAdd := fun s nnn x =>
  ⟨⟨formatA_toNat 0xA nnn, _, exec_ldINnn nnn s, zextAddr_toNat nnn, keepsAllBut_setI rfl⟩,
    ⟨formatXK_groupF_toNat x 0x1E, _, exec_addIVx x s, indexPlus_toNat s.i _, keepsAllBut_setI rfl⟩⟩

/-- Settles O34: FONT_BASE is at most 0x1B0 and V[X] at most 0xFF, so I is at most 0x6AB. -/
theorem indexPointsAtGlyph : Obligations.IndexPointsAtGlyph := by
  intro s x hc
  have haddr := glyphAddress_toNat hc (s.reg x)
  have hbound : (glyphAddress s.cfg (s.reg x)).toNat ≤ 0x6AB := by
    have hbase := fontBase_le hc
    have hd := (s.reg x).isLt
    omega
  exact ⟨formatXK_groupF_toNat x 0x29, _, exec_ldFVx x s, haddr, hbound, keepsAllBut_setI rfl⟩

/-! #### Stores -/

/-- An instruction that stores the `n` bytes `bs` at I: each byte in its place, every other byte of MEM as before,
and the frame. -/
theorem store_of_exec {i : Instr} {s : State} {bs : List Byte} {n : Nat} (hlen : bs.length = n)
    (h : exec i s = .next (s.advance.setMem (Memory.writeBlock s.cfg s.mem s.i.toNat bs))) :
    ∃ t, exec i s = .next t ∧ (∀ k, k < n → t.byteAt (indexAddress s + k) = bs.getD k 0) ∧
      KeepsMemoryOutside (indexAddress s) n s t ∧ t.pc = s.pc + 2 ∧ KeepsRegsBut [] s t ∧ KeepsIndex s t ∧
      KeepsStack s t ∧ KeepsTimers s t ∧ KeepsScreen s t ∧ KeepsControl s t := by
  have hread := fun a => byteAt_writeBlock s.advance (indexAddress s) a bs
  rw [hlen] at hread
  refine ⟨_, h, fun k hk => (hread _).trans ?_, fun b hb => (hread b).trans ?_, rfl, fun _ _ => rfl, rfl,
    ⟨rfl, rfl⟩, ⟨rfl, rfl⟩, fun _ _ => rfl, keepsControl_refl s⟩
  · rw [if_pos (by omega), Nat.add_sub_cancel_left]
  · rw [if_neg (by omega), State.advance_byteAt]

/-- The digits of a byte as numbers: each is below 10, so its byte holds it (`43_index_memory.md` R133). -/
theorem decimalDigits_toNat (b : Byte) :
    ((decimalDigits b).getD 0 0).toNat = b.toNat / 100 ∧ ((decimalDigits b).getD 1 0).toNat = b.toNat / 10 % 10 ∧
      ((decimalDigits b).getD 2 0).toNat = b.toNat % 10 := by
  have hdigit : ∀ d, d < 10 → (BitVec.ofNat 8 d).toNat = d := fun d hd =>
    (BitVec.toNat_ofNat ..).trans (Nat.mod_eq_of_lt (by omega))
  have hb := b.isLt
  exact ⟨hdigit _ (by omega), hdigit _ (by omega), hdigit _ (by omega)⟩

/-- Settles O35: the three digits are one block stored at I. -/
theorem decimalDigitsAreStored : Obligations.DecimalDigitsAreStored := by
  refine fun s x => ⟨formatXK_groupF_toNat x 0x33, fun hfit => ?_, fun habove =>
    ⟨_, exec_ldBVx_fault x s habove, haltsUnchanged_enterFault _ _ s⟩⟩
  obtain ⟨t, hexec, hbytes, hframe⟩ := store_of_exec (decimalDigits_length _) (exec_ldBVx_ok x s hfit)
  obtain ⟨hhundreds, htens, hones⟩ := decimalDigits_toNat (s.reg x)
  exact ⟨t, hexec, (congrArg BitVec.toNat (hbytes 0 (by decide))).trans hhundreds,
    (congrArg BitVec.toNat (hbytes 1 (by decide))).trans htens,
    (congrArg BitVec.toNat (hbytes 2 (by decide))).trans hones, hframe⟩

/-- Settles O36: the registers are one block stored at I. -/
theorem registersAreStored : Obligations.RegistersAreStored := by
  refine fun s x => ⟨formatXK_groupF_toNat x 0x55, fun hfit => ?_, fun habove =>
    ⟨_, exec_ldMemVx_fault x s habove, haltsUnchanged_enterFault _ _ s⟩⟩
  obtain ⟨t, hexec, -, hframe⟩ := store_of_exec (regBlock_length x s) (exec_ldMemVx_ok x s hfit)
  exact ⟨t, hexec, fun k hk => byteAt_of_exec_ldMemVx hfit hexec hk, hframe⟩

/-! #### The block load of registers -/

/-- The frame of the block load: all but V and PC. -/
theorem keepsAllButRegs_setRegsFrom (s : State) (k : Nat) (bs : List Byte) :
    KeepsAllButRegs s (s.advance.setRegsFrom k bs) := by
  rw [State.setRegsFrom_eq]
  exact ⟨rfl, ⟨rfl, rfl⟩, ⟨rfl, rfl⟩, fun _ _ => rfl, fun _ => rfl, keepsControl_refl s⟩

/-- V[k] after the load of V[0] to V[X] from `a` on: MEM[a + k] up to X, and as before above X. -/
theorem reg_setRegsFrom_readBlock (s : State) (x k : Reg) (a : Nat) :
    (s.advance.setRegsFrom 0 (Memory.readBlock s.cfg s.mem a (x.val + 1))).reg k =
      if k.val ≤ x.val then s.byteAt (a + k.val) else s.reg k := by
  rw [State.setRegsFrom_reg _ _ _ _ (by rw [Memory.readBlock_length]; omega), Memory.readBlock_length]
  by_cases hk : k.val ≤ x.val
  · rw [if_pos hk, if_pos (by omega), Memory.readBlock_getD _ _ _ _ _ (by omega)]; rfl
  · rw [if_neg hk, if_neg (by omega), State.advance_reg]

/-- Settles O37: the registers up to X are loaded as one block read from I on. -/
theorem registersAreLoaded : Obligations.RegistersAreLoaded := by
  refine fun s x => ⟨formatXK_groupF_toNat x 0x65, fun hfit => ?_, fun habove =>
    ⟨_, exec_ldVxMem_fault x s habove, haltsUnchanged_enterFault _ _ s⟩⟩
  have hreg := fun k => reg_setRegsFrom_readBlock s x k (indexAddress s)
  refine ⟨_, exec_ldVxMem_ok x s hfit, fun k hk => (hreg k).trans (if_pos hk),
    fun k hk => (hreg k).trans (if_neg hk.not_ge), State.setRegsFrom_pc _ _ _, keepsAllButRegs_setRegsFrom s _ _⟩

/-- Settles O38: FX55 keeps I, so FX65 reads V[k] where FX55 stored it. -/
theorem loadRestoresStoredRegisters : Obligations.LoadRestoresStoredRegisters := by
  intro s t t' x hfit hstore hi hkept
  have hti : t.i = s.i := by
    rw [exec_ldMemVx_ok x s hfit] at hstore
    cases hstore
    rfl
  have haddr : indexAddress t' = indexAddress s := congrArg BitVec.toNat (hi.trans hti)
  obtain ⟨-, hload, -⟩ := registersAreLoaded t' x
  obtain ⟨u, hexec, hloaded, -⟩ := hload (haddr ▸ hfit)
  refine ⟨u, hexec, fun k hk => ?_⟩
  calc u.reg k = t'.byteAt (indexAddress s + k.val) := haddr ▸ hloaded k hk
    _ = t.byteAt (indexAddress s + k.val) := hkept _ (by omega) (by omega)
    _ = s.reg k := byteAt_of_exec_ldMemVx hfit hstore hk

end Sys2Proof.Machine

/-! ### The display

What a draw does to a pixel and to the collision, from `pixel_drawSprite` and `collision_drawSprite`, in terms of
the cells that the sprite in memory covers. -/

namespace Sys2Proof.Machine

/-! #### The cells that the sprite at I covers -/

/-- The rows read from I on cover the cells that the sprite at I covers (`44_display.md` R142). -/
theorem coversCell_readBlock_iff (s : State) (x0 y0 n : Nat) (px : Fin 64) (py : Fin 32) :
    CoversCell x0 y0 (Memory.readBlock s.cfg s.mem (indexAddress s) n) px py ↔ SpriteCovers s x0 y0 n px py := by
  have hread : ∀ row, row < n →
      (Memory.readBlock s.cfg s.mem (indexAddress s) n).getD row 0 = s.byteAt (indexAddress s + row) :=
    fun row hrow => Memory.readBlock_getD _ _ _ _ _ hrow
  constructor
  · rintro ⟨row, hrow, hy, hcovers⟩
    rw [Memory.readBlock_length] at hrow
    rw [hread row hrow] at hcovers
    obtain ⟨col, hcol, hbit, hx⟩ := (coversRow_iff ..).1 hcovers
    exact ⟨row, col, hrow, hcol, hbit, hx, congrArg Fin.val hy⟩
  · rintro ⟨row, col, hrow, hcol, hbit, hx, hy⟩
    refine ⟨row, (Memory.readBlock_length ..).symm ▸ hrow, Fin.ext hy, ?_⟩
    rw [hread row hrow]
    exact (coversRow_iff ..).2 ⟨col, hcol, hbit, hx⟩

/-- Which cells a sprite covers is a matter of I and MEM. -/
theorem spriteCovers_congr {s t : State} (hindex : KeepsIndex s t) (hmem : KeepsMemory s t) (x0 y0 n : Nat)
    (px : Fin 64) (py : Fin 32) : SpriteCovers t x0 y0 n px py ↔ SpriteCovers s x0 y0 n px py := by
  have haddr : indexAddress t = indexAddress s := congrArg BitVec.toNat hindex
  simp only [SpriteCovers, haddr, hmem _]

/-! #### What DXYN draws -/

/-- A sprite has at most 15 rows, so no two of them share a row of the framebuffer. -/
theorem spriteRows_length_le (s : State) (n : BitVec 4) :
    (Memory.readBlock s.cfg s.mem (indexAddress s) n.toNat).length ≤ 32 := by
  have hn := n.isLt
  rw [Memory.readBlock_length]
  omega

theorem pixel_drawing (x y : Reg) (n : BitVec 4) (s : State) (px : Fin 64) (py : Fin 32) :
    (SpriteCovers s (s.reg x).toNat (s.reg y).toNat n.toNat px py →
        pixel (drawing x y n s).fb px py = !pixel s.fb px py) ∧
      (¬SpriteCovers s (s.reg x).toNat (s.reg y).toNat n.toNat px py →
        pixel (drawing x y n s).fb px py = pixel s.fb px py) := by
  rw [← coversCell_readBlock_iff]
  exact pixel_drawSprite _ _ _ _ px py (spriteRows_length_le s n)

theorem collision_drawing (x y : Reg) (n : BitVec 4) (s : State) :
    (drawing x y n s).collision = true ↔
      ∃ px py, SpriteCovers s (s.reg x).toNat (s.reg y).toNat n.toNat px py ∧ pixel s.fb px py = true := by
  simp only [← coversCell_readBlock_iff]
  exact (collision_drawSprite _ _ _ _ (spriteRows_length_le s n)).trans (or_iff_right Bool.false_ne_true)

/-! #### DXYN and 00E0 -/

theorem flagByte_eq_one_iff (f : Bool) : flagByte f = 0x01 ↔ f = true := by
  cases f <;> decide

/-- The sprite is in memory when its last row is; N = 0 has no last row. -/
theorem spriteFits_of_lastRow {s : State} {n : BitVec 4} (h : n.toNat = 0 ∨ indexAddress s + n.toNat - 1 ≤ 0xFFF) :
    n = 0 ∨ s.i.toNat + n.toNat ≤ 0x1000 :=
  h.imp (fun hzero => BitVec.eq_of_toNat_eq hzero) (fun hlast => Nat.sub_le_iff_le_add.1 hlast)

theorem State.setFlag_flag (s : State) (f : Bool) : (s.setFlag f).reg 0xF = flagByte f :=
  (State.setFlag_reg ..).trans (if_pos rfl)

theorem keepsRegsBut_setFlag (s : State) (f : Bool) : KeepsRegsBut [0xF] s (s.setFlag f) := fun _ hr =>
  (State.setFlag_reg ..).trans (if_neg fun h => hr (List.mem_singleton.2 h))

/-- Settles O41: the sprite's cells are the rows' cells, and the flag is the collision. -/
theorem drawComplementsCoveredPixels : Obligations.DrawComplementsCoveredPixels := by
  refine fun s x y n => ⟨formatXYN_toNat 0xD x y n, fun hfits => ?_, fun hpos habove => ?_⟩
  · refine ⟨_, exec_drw_ok x y n s (spriteFits_of_lastRow hfits), fun px py => (pixel_drawing x y n s px py).1,
      fun px py => (pixel_drawing x y n s px py).2, ?_, ?_, rfl, keepsRegsBut_setFlag (s.advance.setFb _) _, rfl,
      ⟨rfl, rfl⟩, ⟨rfl, rfl⟩, fun _ => rfl, keepsControl_refl s⟩
    · rw [State.setFlag_flag]
      exact flagByte_zero_or_one _
    · rw [State.setFlag_flag, flagByte_eq_one_iff]
      exact collision_drawing x y n s
  · have hrows : n ≠ 0 := fun hzero => hpos.ne' (congrArg BitVec.toNat hzero)
    exact ⟨_, exec_drw_fault x y n s hrows (Nat.lt_sub_iff_add_lt.1 habove), haltsUnchanged_enterFault _ _ s⟩

/-- Settles O42: the second draw covers the same cells, and a pixel complemented twice is as before. -/
theorem drawingTwiceRestoresScreen : Obligations.DrawingTwiceRestoresScreen := by
  intro s t x y n hx hy hfits hexec
  obtain ⟨-, hfirst, -⟩ := drawComplementsCoveredPixels s x y n
  obtain ⟨t₀, hexec₀, hflip, hkeep, -, -, -, hregs, hindex, -, -, hmem, -⟩ := hfirst hfits
  obtain rfl : t₀ = t := Host.Outcome.next.inj (hexec₀.symm.trans hexec)
  have haddr : indexAddress t₀ = indexAddress s := congrArg BitVec.toNat hindex
  obtain ⟨-, hsecond, -⟩ := drawComplementsCoveredPixels t₀ x y n
  obtain ⟨u, hdraw, hflip', hkeep', -⟩ := hsecond (haddr ▸ hfits)
  rw [hregs x (mt List.mem_singleton.1 hx), hregs y (mt List.mem_singleton.1 hy)] at hflip' hkeep'
  simp only [spriteCovers_congr hindex hmem] at hflip' hkeep'
  refine ⟨u, hdraw, fun px py => ?_⟩
  by_cases hcovers : SpriteCovers s (s.reg x).toNat (s.reg y).toNat n.toNat px py
  · rw [hflip' px py hcovers, hflip px py hcovers, Bool.not_not]
  · rw [hkeep' px py hcovers, hkeep px py hcovers]

/-- Settles O40: the framebuffer is the blank one, and the rest is `setFb`. -/
theorem clearScreenClearsEveryPixel : Obligations.ClearScreenClearsEveryPixel := fun s =>
  ⟨rfl, _, exec_cls s, pixel_blankScreen, rfl, fun _ _ => rfl, rfl, ⟨rfl, rfl⟩, ⟨rfl, rfl⟩, fun _ => rfl,
    keepsControl_refl s⟩

end Sys2Proof.Machine

/-! ### Keypad and timers

A key skip is a skip by `keyPressed`, FX15 and FX18 set a timer, and the key that ends a wait is the least of those
newly down. -/

namespace Sys2Proof.Machine

/-! #### KeySample -/

/-- The keys of the vector that R153 searches: down in the sample and up in KEY_PREV. -/
theorem newlyDown_iff (keys prev : Word) {k : Nat} (hk : k < 16) :
    (keys &&& ~~~prev).getLsbD k = true ↔ keys.getLsbD k = true ∧ prev.getLsbD k = false := by
  simp [hk]

/-- `first_key` of the newly down keys is the least of them. -/
theorem newlyDown_of_firstKey {keys prev : Word} {k : Nat} (hfirst : firstKey (keys &&& ~~~prev) = some k) :
    keys.getLsbD k = true ∧ prev.getLsbD k = false ∧
      ∀ j, j < k → keys.getLsbD j = true → prev.getLsbD j = true := by
  obtain ⟨-, hnone⟩ | ⟨k', hfirst', hk, hbit, hleast⟩ := firstKey_cases (keys &&& ~~~prev)
  · exact absurd (hnone.symm.trans hfirst) nofun
  · obtain rfl : k' = k := Option.some.inj (hfirst'.symm.trans hfirst)
    obtain ⟨hdown, hup⟩ := (newlyDown_iff keys prev hk).1 hbit
    refine ⟨hdown, hup, fun j hj hdownj => ?_⟩
    by_contra hupj
    have hbitj := (newlyDown_iff keys prev (hj.trans hk)).2 ⟨hdownj, Bool.eq_false_of_not_eq_true hupj⟩
    exact Bool.false_ne_true ((hleast j hj).symm.trans hbitj)

/-- The register frame of a bare write, as KeySample does one (`45_keypad_timers.md` R154). -/
theorem keepsRegsBut_setReg (s : State) (x : Reg) (b : Byte) : KeepsRegsBut [x] s (s.setReg x b) := fun _ hr =>
  (State.setReg_reg ..).trans (if_neg fun h => hr (List.mem_singleton.2 h))

/-- Settles O47: one case of KeySample answers each clause, and a key number fits a byte. -/
theorem keySampleEndsTheWait : Obligations.KeySampleEndsTheWait := by
  intro s keys
  obtain ⟨hrun, h⟩ | ⟨hrun, hnone, h⟩ | ⟨hrun, k, hfirst, hk, h⟩ := keySample_cases keys s
  · exact ⟨fun _ => congrArg Host.Outcome.next h, fun hwait => absurd hwait hrun, fun hwait => absurd hwait hrun⟩
  · exact ⟨fun hout => absurd hrun hout, fun _ _ => congrArg Host.Outcome.next h, fun _ hnew => absurd hnone hnew⟩
  · refine ⟨fun hout => absurd hrun hout, fun _ hnone => ?_, fun _ _ => ?_⟩
    · rw [hnone] at hfirst
      exact absurd hfirst (show firstKey 0 ≠ some k from nofun)
    · obtain ⟨hdown, hup, hleast⟩ := newlyDown_of_firstKey hfirst
      have hreg : ((s.setReg s.waitX (BitVec.ofNat 8 k)).reg s.waitX).toNat = k := by
        rw [State.setReg_reg_self, BitVec.toNat_ofNat, Nat.mod_eq_of_lt (by omega)]
      exact ⟨_, k, congrArg Host.Outcome.next h, hk, hdown, hup, hleast, hreg, keepsRegsBut_setReg s s.waitX _, rfl⟩

/-! #### The key instructions -/

/-- The words EXNN. -/
theorem formatXK_groupE_toNat (x : Reg) (nn : Byte) :
    (formatXK 0xE x nn).toNat = 0xE000 + nn.toNat + 0x100 * x.val :=
  (formatXK_toNat 0xE x nn).trans (Nat.add_right_comm ..)

/-- The key number is the low 4 bits of V[X] (`45_keypad_timers.md` R150). -/
theorem keyPressed_eq (x : Reg) (s : State) : keyPressed x s = s.env.keys.getLsbD ((s.reg x).toNat % 16) := by
  rw [keyPressed, keyIndex, BitVec.toNat_and]
  exact congrArg _ (Nat.and_two_pow_sub_one_eq_mod _ 4)

/-- Settles O43: each of the two is a skip by the test of its condition. -/
theorem keySkipsTestTheSnapshot : Obligations.KeySkipsTestTheSnapshot := by
  intro s x
  rw [← keyPressed_eq]
  exact ⟨⟨formatXK_groupE_toNat x 0x9E, skip_of_exec (exec_skp x s) Iff.rfl⟩,
    ⟨formatXK_groupE_toNat x 0xA1, skip_of_exec (exec_sknp x s) (Bool.not_eq_true' _).to_iff⟩⟩

/-- Settles O44: the three updates reach only RUN, WAIT_X and KEY_PREV, beside PC + 2. -/
theorem keyWaitLatchesAndSuspends : Obligations.KeyWaitLatchesAndSuspends := fun s x =>
  ⟨formatXK_groupF_toNat x 0x0A, _, exec_ldVxK x s, rfl, rfl, rfl, rfl, fun _ _ => rfl, rfl, ⟨rfl, rfl⟩, ⟨rfl, rfl⟩,
    fun _ _ => rfl, fun _ => rfl, ⟨rfl, rfl⟩, rfl, rfl, rfl⟩

/-! #### The timer instructions -/

/-- The frame of an instruction that sets a timer: all but DT and ST, and PC + 2. -/
theorem keepsAllBut_setDt_setSt {s t : State} {d e : Byte} (h : t = (s.advance.setDt d).setSt e) :
    t.pc = s.pc + 2 ∧ KeepsRegsBut [] s t ∧ KeepsIndex s t ∧ KeepsStack s t ∧ KeepsScreen s t ∧ KeepsMemory s t ∧
      KeepsControl s t := by
  subst h
  exact ⟨rfl, fun _ _ => rfl, rfl, ⟨rfl, rfl⟩, fun _ _ => rfl, fun _ => rfl, keepsControl_refl s⟩

/-- Settles O45: FX07 is a register write, FX15 and FX18 set one timer, and `tone` is a test of ST. -/
theorem timerAccess : Obligations.TimerAccess := by
  refine fun s x =>
    ⟨⟨formatXK_groupF_toNat x 0x07, _, exec_ldVxDt x s, ?_, onlyRegsChange_setReg_self s x _⟩,
      ⟨formatXK_groupF_toNat x 0x15, _, exec_ldDtVx x s, rfl, rfl, ?_⟩,
      ⟨formatXK_groupF_toNat x 0x18, _, exec_ldStVx x s, rfl, ?_, rfl, ?_⟩⟩
  · exact State.setReg_reg_self _ x s.dt
  · exact keepsAllBut_setDt_setSt (d := s.reg x) (e := s.st) rfl
  · exact decide_eq_true_iff
  · exact keepsAllBut_setDt_setSt (d := s.dt) (e := s.reg x) rfl

end Sys2Proof.Machine

/-! ### Faults, the events on a halted core, Tick and the outputs

Which fault a cycle takes is said once, by `cycleFault` and `cycle_fault_cases`: that a fault is precise and that each
has its causes is read off the two. -/

namespace Sys2Proof.Machine

/-! #### Unassigned words -/

theorem cycle_of_unassigned {s : State} (hrun : s.run = .running) (hpc : s.pc.toNat ≤ 0xFFE)
    (hnone : decode (wordAtPc s) = none) : cycle s = .next (unassignedOpcode (wordAtPc s) s) := by
  obtain ⟨h, -⟩ | ⟨-, h, -⟩ | ⟨-, -, -, h⟩ | ⟨-, -, i, hi, -⟩ := cycle_cases s
  · exact absurd hrun h
  · exact absurd hpc h.not_ge
  · exact h
  · exact absurd (hnone.symm.trans hi) nofun

theorem cycle_of_unassigned_halt {s : State} (hrun : s.run = .running) (hpc : s.pc.toNat ≤ 0xFFE)
    (hnone : decode (wordAtPc s) = none) (hstrap : s.straps.unimplHalt = true) :
    cycle s = .next (enterFault .unimplementedOpcode s.pc (wordAtPc s) s) :=
  (cycle_of_unassigned hrun hpc hnone).trans (congrArg Host.Outcome.next (if_pos hstrap))

theorem cycle_of_unassigned_skip {s : State} (hrun : s.run = .running) (hpc : s.pc.toNat ≤ 0xFFE)
    (hnone : decode (wordAtPc s) = none) (hstrap : s.straps.unimplHalt = false) :
    cycle s = .next (s.advance.setUnimpl { seen := true, pc := s.pc, insn := wordAtPc s }) :=
  (cycle_of_unassigned hrun hpc hnone).trans
    (congrArg Host.Outcome.next (if_neg (Bool.eq_false_iff.1 hstrap)))

/-- Settles O10: UNIMPL_HALT chooses between the fault entry and the recorded skip. -/
theorem unassignedWordFollowsPolicy : Obligations.UnassignedWordFollowsPolicy := by
  rintro s keys rnd rest w hcfg hrun hp hpc rfl hnone
  rw [step_of_listed_step hcfg hp]
  exact ⟨fun hstrap => cycle_of_unassigned_halt hrun hpc hnone hstrap,
    fun hstrap => cycle_of_unassigned_skip hrun hpc hnone hstrap⟩

/-! #### The fault that a Step takes -/

/-- The instruction uses an address above 0xFFF (`60_exceptions.md` R171). -/
def LeavesMemory (i : Instr) (s : State) : Prop :=
  (∃ x y n, i = .drw x y n ∧ 0 < n.toNat ∧ 0xFFF < s.i.toNat + n.toNat - 1) ∨
    (∃ x, i = .ldBVx x ∧ 0xFFF < s.i.toNat + 2) ∨
    (∃ x, (i = .ldMemVx x ∨ i = .ldVxMem x) ∧ 0xFFF < s.i.toNat + x.val)

theorem rowCount_eq_zero_iff (n : BitVec 4) : n = 0#4 ↔ n.toNat = 0 := BitVec.toNat_inj.symm

/-- Which fault an instruction raises and when (`60_exceptions.md` R171 to R173, R177). -/
theorem raised_eq_some_iff (i : Instr) (s : State) (f : Fault) :
    raised i s = some f ↔
      (f = .addressError ∧ LeavesMemory i s) ∨
      (f = .stackOverflow ∧ ∃ nnn, i = .call nnn ∧ s.sp = s.cfg.stackDepth) ∨
      (f = .stackUnderflow ∧ i = .ret ∧ s.sp = 0) := by
  cases i
  case drw x y n => simp [raised, LeavesMemory, rowCount_eq_zero_iff, and_comm, eq_comm (a := f)]; omega
  case ldBVx x => simp [raised, LeavesMemory, and_comm, eq_comm (a := f)]; omega
  all_goals simp [raised, LeavesMemory, and_comm, eq_comm (a := f)]

/-- The fault that a Step of a Running core takes, if any: the fetch comes first, then the decoder, then the
instruction (`60_exceptions.md` R177; the spec's decision D23). -/
def cycleFault (s : State) : Option Fault :=
  if 0xFFE < s.pc.toNat then some .addressError
  else
    match decode (wordAtPc s) with
    | some i => raised i s
    | none => if s.straps.unimplHalt then some .unimplementedOpcode else none

/-- The word that a Step fetches: 0x0000 when the fetch itself faults (`40_instruction_cycle.md` R83). -/
def fetchedWord (s : State) : Word := if s.pc.toNat ≤ 0xFFE then wordAtPc s else 0x0000

theorem cycleFault_of_fetch_fault {s : State} (hpc : 0xFFE < s.pc.toNat) : cycleFault s = some .addressError :=
  if_pos hpc

theorem cycleFault_of_decode {s : State} {i : Instr} (hpc : s.pc.toNat ≤ 0xFFE)
    (hi : decode (wordAtPc s) = some i) : cycleFault s = raised i s := by
  rw [cycleFault, if_neg hpc.not_gt, hi]

theorem cycleFault_of_unassigned {s : State} (hpc : s.pc.toNat ≤ 0xFFE) (hnone : decode (wordAtPc s) = none) :
    cycleFault s = if s.straps.unimplHalt then some .unimplementedOpcode else none := by
  rw [cycleFault, if_neg hpc.not_gt, hnone]

/-- An instruction halts the core only by the fault it raises. -/
theorem Completed.run_ne_halted {i : Instr} {s t : State} (hc : Completed i s t) (hrun : s.run ≠ .halted) :
    t.run ≠ .halted := by
  obtain h | ⟨h, -⟩ := hc.run
  · rwa [h]
  · rw [h]; decide

/-- What a Step of a Running core does about faults: it enters the one that `cycleFault` names, with the fetched word,
or it does not halt. -/
theorem cycle_fault_cases {s t : State} (h : cycle s = .next t) (hrun : s.run = .running) :
    (∃ f, cycleFault s = some f ∧ t = enterFault f s.pc (fetchedWord s) s) ∨
      (cycleFault s = none ∧ t.run ≠ .halted) := by
  have hlive : s.run ≠ .halted := by rw [hrun]; decide
  obtain ⟨hout, -⟩ | ⟨-, hpc, hc⟩ | ⟨-, hpc, hd, -⟩ | ⟨-, hpc, i, hd, hc⟩ := cycle_cases s
  · exact absurd hrun hout
  · rw [hc] at h
    cases h
    exact .inl ⟨_, cycleFault_of_fetch_fault hpc, by rw [fetchedWord, if_neg hpc.not_ge]⟩
  · rw [cycleFault_of_unassigned hpc hd, fetchedWord, if_pos hpc]
    cases hstrap : s.straps.unimplHalt with
    | true =>
      rw [cycle_of_unassigned_halt hrun hpc hd hstrap] at h
      cases h
      exact .inl ⟨_, rfl, rfl⟩
    | false =>
      rw [cycle_of_unassigned_skip hrun hpc hd hstrap] at h
      cases h
      exact .inr ⟨rfl, hlive⟩
  · rw [cycleFault_of_decode hpc hd, fetchedWord, if_pos hpc, ← encode_of_decode hd]
    exact (exec_cases (hc ▸ h)).imp_right fun ⟨hr, hdone⟩ => ⟨hr, hdone.run_ne_halted hlive⟩

/-- Settles O12: the state after is the fault entry on the state before. -/
theorem faultingStepIsPrecise : Obligations.FaultingStepIsPrecise := by
  intro s t keys rnd rest hrun hp h hhalted
  rw [step_of_listed_step (step_cases h).1 hp] at h
  obtain ⟨f, -, rfl⟩ | ⟨-, hlive⟩ := cycle_fault_cases h hrun
  · exact ⟨rfl, rfl, (faultCode_pos f).1, rfl⟩
  · exact absurd hhalted hlive

/-! #### The causes of each fault -/

/-- The code that a Step leaves on a halted core names its fault. -/
theorem cycle_halts_with_iff {s t : State} (h : cycle s = .next t) (hrun : s.run = .running) (f : Fault) :
    (t.run = .halted ∧ t.fault.code = faultCode f) ↔ cycleFault s = some f := by
  obtain ⟨g, hg, rfl⟩ | ⟨hnone, hlive⟩ := cycle_fault_cases h hrun
  · rw [hg, Option.some.injEq]
    exact ⟨fun ⟨_, hcode⟩ => faultCode_injective g f hcode, fun hgf => ⟨rfl, congrArg faultCode hgf⟩⟩
  · exact ⟨fun ⟨hhalted, _⟩ => absurd hhalted hlive, fun hf => absurd (hnone.symm.trans hf) nofun⟩

/-- Where a fault comes from: the fetch, the decoder or the instruction. -/
theorem cycleFault_eq_some_iff (s : State) (f : Fault) :
    cycleFault s = some f ↔
      (0xFFE < s.pc.toNat ∧ f = .addressError) ∨
      (s.pc.toNat ≤ 0xFFE ∧
        ((decode (wordAtPc s) = none ∧ s.straps.unimplHalt = true ∧ f = .unimplementedOpcode) ∨
          ∃ i, decode (wordAtPc s) = some i ∧ raised i s = some f)) := by
  by_cases hpc : s.pc.toNat ≤ 0xFFE
  · cases hd : decode (wordAtPc s) with
    | none => simp [cycleFault_of_unassigned hpc hd, hpc, hpc.not_gt, eq_comm (a := f)]
    | some i => simp [cycleFault_of_decode hpc hd, hpc, hpc.not_gt]
  · simp [cycleFault_of_fetch_fault (not_le.1 hpc), hpc, not_le.1 hpc, eq_comm (a := f)]

theorem cycleFault_addressError_iff (s : State) :
    cycleFault s = some .addressError ↔
      0xFFE < s.pc.toNat ∨ ∃ i, decode (wordAtPc s) = some i ∧ LeavesMemory i s := by
  by_cases hpc : 0xFFE < s.pc.toNat
  · simp [cycleFault_eq_some_iff, hpc]
  · simp [cycleFault_eq_some_iff, raised_eq_some_iff, hpc, not_lt.1 hpc]

/-- The causes of R171, with the fetched word in the place of the instruction. -/
theorem exists_leavesMemory_iff (o : Option Instr) (s : State) :
    (∃ i, o = some i ∧ LeavesMemory i s) ↔
      (∃ x y n, o = some (.drw x y n) ∧ 0 < n.toNat ∧ 0xFFF < s.i.toNat + n.toNat - 1) ∨
      (∃ x, o = some (.ldBVx x) ∧ 0xFFF < s.i.toNat + 2) ∨
      (∃ x, (o = some (.ldMemVx x) ∨ o = some (.ldVxMem x)) ∧ 0xFFF < s.i.toNat + x.val) := by
  cases o with
  | none => simp
  | some i => simp [LeavesMemory]

theorem cycleFault_stackOverflow_iff (s : State) :
    cycleFault s = some .stackOverflow ↔
      s.pc.toNat ≤ 0xFFE ∧ ∃ nnn, decode (wordAtPc s) = some (.call nnn) ∧ s.sp = s.cfg.stackDepth := by
  simp [cycleFault_eq_some_iff, raised_eq_some_iff]

theorem cycleFault_stackUnderflow_iff (s : State) :
    cycleFault s = some .stackUnderflow ↔ s.pc.toNat ≤ 0xFFE ∧ decode (wordAtPc s) = some .ret ∧ s.sp = 0 := by
  simp [cycleFault_eq_some_iff, raised_eq_some_iff]

theorem cycleFault_unimplementedOpcode_iff (s : State) :
    cycleFault s = some .unimplementedOpcode ↔
      s.pc.toNat ≤ 0xFFE ∧ decode (wordAtPc s) = none ∧ s.straps.unimplHalt = true := by
  simp [cycleFault_eq_some_iff, raised_eq_some_iff]

/-- Settles O13: each code is that of one fault, and each fault comes from its own causes. -/
theorem eachFaultHasItsCauses : Obligations.EachFaultHasItsCauses := by
  rintro s t keys rnd rest w hrun hp h rfl
  rw [step_of_listed_step (step_cases h).1 hp] at h
  have hcause := cycle_halts_with_iff h hrun
  refine ⟨?_, ?_, ?_, ?_, fun hhalted => ?_⟩
  · exact (hcause .addressError).trans
      ((cycleFault_addressError_iff _).trans (or_congr_right (exists_leavesMemory_iff _ _)))
  · exact (hcause .stackOverflow).trans (cycleFault_stackOverflow_iff _)
  · exact (hcause .stackUnderflow).trans (cycleFault_stackUnderflow_iff _)
  · exact (hcause .unimplementedOpcode).trans (cycleFault_unimplementedOpcode_iff _)
  · obtain ⟨f, -, rfl⟩ | ⟨-, hlive⟩ := cycle_fault_cases h hrun
    · cases f <;> simp [faultCode]
    · exact absurd hhalted hlive

/-! #### Halted is final -/

theorem keySample_of_halted (keys : Word) {s : State} (h : s.run = .halted) : keySample keys s = s :=
  if_neg (by rw [h]; decide)

theorem stop_of_halted {s : State} (h : s.run = .halted) : stop s = s :=
  if_pos h

theorem stop_of_not_halted {s : State} (h : s.run ≠ .halted) : stop s = s.setRun .halted :=
  if_neg h

/-- Settles O49: Stop is a test of RUN. -/
theorem stopHaltsWithoutFault : Obligations.StopHaltsWithoutFault := fun _ =>
  ⟨fun hlive => congrArg Host.Outcome.next (stop_of_not_halted hlive),
    fun hhalted => congrArg Host.Outcome.next (stop_of_halted hhalted)⟩

/-- On a halted core every event but Tick and Reset does nothing (`60_exceptions.md` R179), but that a Step samples its
inputs. -/
theorem applyEvent_of_halted {s : State} {e : HostEvent} (h : s.run = .halted) (htick : e ≠ .tick)
    (hreset : ∀ rom straps, e ≠ .reset rom straps) : ∃ env, applyEvent e s = .next (s.setEnv env) := by
  cases e with
  | reset rom straps => exact absurd rfl (hreset rom straps)
  | step keys rnd =>
    exact ⟨_, cycle_of_not_running (s := sampleInputs keys rnd s) (show s.run ≠ .running by rw [h]; decide)⟩
  | tick => exact absurd rfl htick
  | keySample keys => exact ⟨s.env, congrArg Host.Outcome.next (keySample_of_halted keys h)⟩
  | stop => exact ⟨s.env, congrArg Host.Outcome.next (stop_of_halted h)⟩

/-- Settles O51: Tick writes the timers alone, and every other event leaves a halted core as it is. -/
theorem haltedIsFinalUntilReset : Obligations.HaltedIsFinalUntilReset := by
  intro s t e rest hhalted hp hreset h
  rw [step_of_pending s e rest (step_cases h).1 hp] at h
  by_cases htick : e = .tick
  · subst htick
    cases h
    exact ⟨rfl, fun hne => absurd rfl hne⟩
  · obtain ⟨env, hsame⟩ := applyEvent_of_halted (s := withPending rest s) hhalted htick hreset
    obtain rfl := Host.Outcome.next.inj (hsame.symm.trans h)
    exact ⟨rfl, fun _ => ⟨rfl, rfl⟩⟩

/-! #### Tick -/

/-- A timer after `n` Ticks fits a byte. -/
theorem timer_sub_toNat (b : Byte) (n : Nat) : (BitVec.ofNat 8 (b.toNat - n)).toNat = b.toNat - n := by
  rw [BitVec.toNat_ofNat, Nat.mod_eq_of_lt (by omega)]

/-- Settles O46: one Tick is a decrement of each timer, and `n` of them are `ticks n`. -/
theorem ticksCountDownToZero : Obligations.TicksCountDownToZero := by
  intro s n
  rw [← ticks_eq_iterate]
  exact ⟨⟨_, rfl, decrement_toNat s.dt, decrement_toNat s.st, rfl⟩, timer_sub_toNat s.dt n, timer_sub_toNat s.st n⟩

/-! #### The outputs -/

theorem fetch_eq_ok_iff (s : State) (w : Word) : fetch s = .ok w ↔ s.pc.toNat ≤ 0xFFE ∧ wordAtPc s = w := by
  obtain ⟨hpc, h⟩ | ⟨hpc, h⟩ := memRead16_cases s s.pc.toNat
  · rw [fetch, h, Except.ok.injEq]
    exact (and_iff_right (Nat.le_of_succ_le_succ hpc)).symm
  · rw [fetch, h]
    exact iff_of_false nofun fun hfits => absurd hfits.1 (by omega)

/-- `fb_update` is a test of RUN, of the fetch and of the sprite's range. -/
theorem fbUpdate_iff (s : State) :
    fbUpdate s = true ↔ s.run = .running ∧ s.pc.toNat ≤ 0xFFE ∧
      ∃ x y n, decode (wordAtPc s) = some (.drw x y n) ∧ inBounds (indexAddress s) n.toNat = true := by
  constructor
  · intro h
    unfold fbUpdate at h
    split at h
    next w hrun hfetch =>
      obtain ⟨hpc, rfl⟩ := (fetch_eq_ok_iff s w).1 hfetch
      split at h
      next x y n hdecode => exact ⟨hrun, hpc, x, y, n, hdecode, h⟩
      next => cases h
    next => cases h
  · rintro ⟨hrun, hpc, x, y, n, hdecode, hfits⟩
    rw [fbUpdate, hrun, (fetch_eq_ok_iff s _).2 ⟨hpc, rfl⟩]
    simp [hdecode, hfits]

/-- A DXYN leaves a Running core running exactly when its sprite is in memory. -/
theorem exec_drw_running_iff {s : State} (hrun : s.run = .running) (x y : Reg) (n : BitVec 4) :
    (∃ t, exec (.drw x y n) s = .next t ∧ t.run = .running) ↔ inBounds (indexAddress s) n.toNat = true := by
  rw [inBounds_iff, ← rowCount_eq_zero_iff]
  by_cases hfits : n = 0 ∨ indexAddress s + n.toNat ≤ 0x1000
  · exact iff_of_true ⟨_, exec_drw_ok x y n s hfits, hrun⟩ hfits
  · obtain ⟨hrows, habove⟩ := not_or.1 hfits
    refine iff_of_false ?_ hfits
    rintro ⟨t, ht, hlive⟩
    rw [exec_drw_fault x y n s hrows (not_le.1 habove)] at ht
    cases ht
    cases hlive

/-- `run_state` encodes RUN (`10_state.md` R26). -/
theorem runCode_injective : Function.Injective runCode := by
  intro r r' h
  cases r <;> cases r' <;> revert h <;> decide

/-- The encoding 3 is never produced (`10_state.md` R26). -/
theorem runCode_ne_three (r : RunState) : runCode r ≠ 3 := by
  cases r <;> decide

/-- Settles O48: `tone` and `run_state` are read off the state, `fb_update` off the Step's DXYN. -/
theorem outputsFollowTheState : Obligations.OutputsFollowTheState := by
  intro s
  have hcode (r : RunState) : runStateOut s = runCode r ↔ s.run = r := runCode_injective.eq_iff
  refine ⟨decide_eq_true_iff, hcode .running, hcode .awaitingKey, hcode .halted, runCode_ne_three s.run, ?_⟩
  rw [fbUpdate_iff]
  refine and_congr_right fun hrun => and_congr_right fun _ => ?_
  refine exists_congr fun x => exists_congr fun y => exists_congr fun n => ?_
  rw [← exec_drw_running_iff hrun x y n, ← exists_and_left]
  rfl

end Sys2Proof.Machine

/-! ### The reference clock and fair runs

DIVCNT counts modulo TICK_DIV, which places the Tick of a period. Outside Running DT is moved by Tick alone, so it
never grows, and past a minimum there is no further Tick unless that minimum is 0. -/

namespace Sys2Proof.Machine

/-! #### The reference clock -/

theorem tick_mem_clockEvents_iff (c : RefClock) (keys : Word) (rnd : Byte) :
    HostEvent.tick ∈ clockEvents c keys rnd ↔ c.tickDiv ≤ c.divCnt + 1 := by
  simp [clockEvents, counterWraps]

/-- A counter below its divider counts modulo the divider (`70_reset_and_hazards.md` R222). -/
theorem counterNext_eq_mod {cnt div : Nat} (h : cnt < div) : counterNext cnt div = (cnt + 1) % div := by
  by_cases hwrap : div ≤ cnt + 1
  · obtain rfl : div = cnt + 1 := by omega
    simp [counterNext, counterWraps]
  · simp [counterNext, counterWraps, hwrap, Nat.mod_eq_of_lt (not_le.1 hwrap)]

theorem clockNext_iterate_tickDiv (k : Nat) (c : RefClock) : (clockNext^[k] c).tickDiv = c.tickDiv := by
  induction k with
  | zero => rfl
  | succ k ih => rw [Function.iterate_succ_apply', ← ih]; rfl

theorem clockNext_iterate_divCnt {c : RefClock} (h : c.divCnt < c.tickDiv) (k : Nat) :
    (clockNext^[k] c).divCnt = (c.divCnt + k) % c.tickDiv := by
  induction k with
  | zero => exact (Nat.mod_eq_of_lt h).symm
  | succ k ih =>
    have hlt : (c.divCnt + k) % c.tickDiv < c.tickDiv := Nat.mod_lt _ (by omega)
    calc (clockNext^[k + 1] c).divCnt
      _ = counterNext (clockNext^[k] c).divCnt (clockNext^[k] c).tickDiv := by
        rw [Function.iterate_succ_apply']; rfl
      _ = ((c.divCnt + k) % c.tickDiv + 1) % c.tickDiv := by
        rw [ih, clockNext_iterate_tickDiv, counterNext_eq_mod hlt]
      _ = (c.divCnt + (k + 1)) % c.tickDiv := Nat.mod_add_mod ..

/-- Settles O54: until DIVCNT wraps it has counted `k` cycles; after that it is below where it began, so it cannot wrap
again within TICK_DIV cycles. -/
theorem referenceClockTicksOncePerPeriod : Obligations.ReferenceClockTicksOncePerPeriod := by
  intro c keys rnd h k hk
  rw [tick_mem_clockEvents_iff, clockNext_iterate_tickDiv, clockNext_iterate_divCnt h]
  by_cases hwrapped : c.divCnt + k < c.tickDiv
  · rw [Nat.mod_eq_of_lt hwrapped]
    omega
  · rw [Nat.mod_eq_sub_mod (not_lt.1 hwrapped), Nat.mod_eq_of_lt (by omega)]
    omega

/-! #### Fair runs -/

theorem keySample_dt (keys : Word) (s : State) : (keySample keys s).dt = s.dt := by
  rw [keySample_eq]

theorem stop_dt (s : State) : (stop s).dt = s.dt := by
  by_cases h : s.run = .halted
  · rw [stop_of_halted h]
  · rw [stop_of_not_halted h]; rfl

/-- An event that neither starts on a Running core nor leaves one moves DT only if it is a Tick: Reset would leave the
core Running, and a Step does nothing (`40_instruction_cycle.md` R81). -/
theorem dt_toNat_of_applyEvent {e : HostEvent} {s t : State} (h : applyEvent e s = .next t)
    (hs : s.run ≠ .running) (ht : t.run ≠ .running) :
    t.dt.toNat = s.dt.toNat - if e = .tick then 1 else 0 := by
  cases e with
  | reset rom straps => cases h; exact absurd rfl ht
  | step keys rnd =>
    obtain rfl := Host.Outcome.next.inj ((cycle_of_not_running (s := sampleInputs keys rnd s) hs).symm.trans h)
    rfl
  | tick => cases h; exact decrement_toNat s.dt
  | keySample keys => cases h; exact congrArg BitVec.toNat (keySample_dt keys s)
  | stop => cases h; exact congrArg BitVec.toNat (stop_dt s)

section Suspended

variable {sched : Nat → HostEvent} {σ : Nat → State}

theorem dt_toNat_succ_of_suspended (hsched : RunsUnder sched σ) (hrun : ∀ n, (σ n).run ≠ .running) (n : Nat) :
    (σ (n + 1)).dt.toNat = (σ n).dt.toNat - if sched n = .tick then 1 else 0 :=
  dt_toNat_of_applyEvent (hsched n) (hrun n) (hrun (n + 1))

/-- DT never grows while the core does not run (`70_reset_and_hazards.md` R212). -/
theorem dt_antitone_of_suspended (hsched : RunsUnder sched σ) (hrun : ∀ n, (σ n).run ≠ .running) :
    Antitone fun n => (σ n).dt.toNat :=
  antitone_nat_of_succ_le fun n => (dt_toNat_succ_of_suspended hsched hrun n).trans_le (Nat.sub_le ..)

end Suspended

/-- Settles O55: take an instant at which DT is least. DT never grows, so at the next Tick it is still that value, and
the Tick cannot lower it. -/
theorem fairTicksEmptyDelayTimer : Obligations.FairTicksEmptyDelayTimer := by
  rintro sched σ hsched ⟨hticks, -⟩ hrun
  obtain ⟨n, hleast⟩ : ∃ n, ∀ m, (σ n).dt.toNat ≤ (σ m).dt.toNat :=
    ⟨_, fun m => Function.argmin_le (fun n => (σ n).dt.toNat) m⟩
  obtain ⟨m, hnm, htick⟩ := hticks n
  have hle : (σ m).dt.toNat ≤ (σ n).dt.toNat := dt_antitone_of_suspended hsched hrun hnm
  have hdec : (σ (m + 1)).dt.toNat = (σ m).dt.toNat - 1 := by
    rw [dt_toNat_succ_of_suspended hsched hrun, if_pos htick]
  have hzero : (σ n).dt.toNat = 0 := by
    have := hleast (m + 1)
    omega
  exact ⟨n, BitVec.eq_of_toNat_eq hzero⟩

end Sys2Proof.Machine
